-- ==== Sys2Proof/Word.lean ====
section
/-! DEFINITION. The word types of the block (spec/00_scope.md R6, R8) and the RGBA16 pixel. -/

namespace Sys2Proof

/-- u8: a byte of the stream, of a row buffer, or of an 8-bit field. -/
abbrev Byte := BitVec 8

/-- u32: a register of the window (00_scope.md R6: "register width 32 bits"). -/
abbrev Word := BitVec 32

/-- u16: one channel of a pixel, and one raw sample (at most 16 bits). -/
abbrev Chan := BitVec 16

/-- u64: the bit cursor, the pixel counter and the error sample index (00_scope.md R6). -/
abbrev Wide := BitVec 64

/-- A host transaction in format T: W, OFFSET, DATA (30_encoding.md R100, R101). -/
abbrev TWord := BitVec 41

/-- The mode word FORMAT[23:0] in format FMT (30_encoding.md R105). -/
abbrev FmtWord := BitVec 24

/-- An RGBA16 pixel `{R, G, B, A}`: four independent u16 channels (44_color_resolve.md R289).
Two pixels are equal exactly when all four channels are (R290), which is equality of this type. -/
structure Rgba16 where
  r : Chan
  g : Chan
  b : Chan
  a : Chan
  deriving DecidableEq, Repr

/-- The cleared output register `{0, 0, 0, 0}`. -/
def Rgba16.zero : Rgba16 := ⟨0, 0, 0, 0⟩

end Sys2Proof
end

