-- ==== Sys2Proof/Config.lean ====
section
/-! DEFINITION. The implementation parameters that the spec leaves OPEN (spec/00_scope.md R6). -/

namespace Sys2Proof

/-- The OPEN parameters of 00_scope.md R6, "an argument of the model". State carries them in one field
that no step changes, so a claim about every state holds for every implementation (log 1, log 2). -/
structure Config where
  /-- ROW_BUF_BYTES: the capacity in bytes of each of the two row buffers. -/
  rowBufBytes : Nat
  /-- BASE_ADDR: the host address of offset 0x00 of the register window (20_memory.md R83). -/
  baseAddr : Nat
  deriving DecidableEq, Repr

/-- 00_scope.md R6: 1 ≤ ROW_BUF_BYTES ≤ 2^30. -/
abbrev Config.wf (c : Config) : Prop := 1 ≤ c.rowBufBytes ∧ c.rowBufBytes ≤ 2 ^ 30

/-- DESIGN CHOICE (log 1, log 2; unsafe): the parameters of the one machine that `State.reset` is. The
capacity is the one that 95_test_vectors.md V-L2-9 uses. -/
def Config.reference : Config := { rowBufBytes := 4096, baseAddr := 0 }

end Sys2Proof
end

