-- ==== Sys2Proof/Syntax.lean ====
section
/-! DEFINITION. The instructions: one constructor of `Instr` for every mnemonic of spec/opcode_table.json.
Rows that share a mnemonic (the two CMD_RESERVED rows, the seven FILTER_ILLEGAL rows) are mask and match
pieces of one range of codes, so they share its constructor, which carries the code. -/

namespace Sys2Proof

/-- The five colour types (10_state.md R26). -/
inductive ColorType where
  | gray
  | rgb
  | indexed
  | grayAlpha
  | rgbAlpha
  deriving DecidableEq, Repr

/-- The five bit depths (00_scope.md R6). -/
inductive Depth where
  | d1
  | d2
  | d4
  | d8
  | d16
  deriving DecidableEq, Repr

/-- The 15 decode modes of 30_encoding.md R105. -/
inductive Mode where
  | g1 | g2 | g4 | g8 | g16
  | rgb8 | rgb16
  | p1 | p2 | p4 | p8
  | ga8 | ga16
  | rgba8 | rgba16
  deriving DecidableEq, Repr

/-- The five filter types of 30_encoding.md R104. -/
inductive FilterType where
  | none
  | sub
  | up
  | avg
  | paeth
  deriving DecidableEq, Repr

/-- An instruction of the block, in one of the three formats of 30_encoding.md R100. An `ignored` operand
holds the bits that the spec names ignored (R107): no meaning looks at it. -/
inductive Instr where
  -- Format T, a write to CTRL (R103). `ignored` is DATA[31:4].
  | nop (ignored : BitVec 28)
  | start (ignored : BitVec 28)
  | abort (ignored : BitVec 28)
  | eos (ignored : BitVec 28)
  | palClear (ignored : BitVec 28)
  | pop (ignored : BitVec 28)
  | cmdReserved (cmd : BitVec 4) (ignored : BitVec 28)
  -- Format T, a write to another offset (R102).
  | wrWidth (width : Word)
  | wrHeight (height : Word)
  | wrFormat (depth ctype interlace ignored : Byte)
  | wrPalData (r8 g8 b8 ignored : Byte)
  | wrInData (byte : Byte) (ignored : BitVec 24)
  | wrIgnored (offset : Byte) (data : Word)
  -- Format T, a read (R102). Its DATA is 0 in the encoding and is not looked at (R101).
  | rd (offset : Byte)
  -- Format FB, the filter-type byte (R104).
  | filterNone
  | filterSub
  | filterUp
  | filterAvg
  | filterPaeth
  | filterIllegal (ftype : Byte)
  -- Format FMT, the decode mode (R105).
  | g1 | g2 | g4 | g8 | g16
  | rgb8 | rgb16
  | p1 | p2 | p4 | p8
  | ga8 | ga16
  | rgba8 | rgba16
  | fmtIllegal (depth ctype interlace : Byte)
  deriving DecidableEq, Repr

/-- An encoded instruction in its format: a 41-bit T word, a filter-type byte, or FORMAT[23:0]. -/
inductive Encoded where
  | t (w : TWord)
  | fb (w : Byte)
  | fmt (w : FmtWord)
  deriving DecidableEq, Repr

end Sys2Proof
end

