-- ==== Sys2Proof/WellFormed.lean ====
section
/-! DEFINITION. Which terms of `Instr` stand for an encoded instruction (spec/30_encoding.md R101 to R108).
The lists here are written from the rules' prose, apart from the decoder's tables, so that the round trip of
Decode.lean checks the one against the other. -/

namespace Sys2Proof

/-- The 15 legal (colour type, bit depth) pairs of 00_scope.md R3. -/
def legalPairs : List (Nat × Nat) :=
  [(0, 1), (0, 2), (0, 4), (0, 8), (0, 16), (2, 8), (2, 16), (3, 1), (3, 2), (3, 4), (3, 8),
   (4, 8), (4, 16), (6, 8), (6, 16)]

/-- `legalPair(ct, d)` of 10_state.md R26. -/
def legalPair (ctype depth : Byte) : Bool := legalPairs.contains (ctype.toNat, depth.toNat)

/-- `legalType(ct)` of 10_state.md R26. -/
def legalType (ctype : Byte) : Bool := [0, 2, 3, 4, 6].contains ctype.toNat

/-- An offset of the window is word aligned: OFFSET[1:0] = 00 (30_encoding.md R101). -/
def aligned (offset : Byte) : Bool := offset.toNat % 4 == 0

/-- The offsets whose writes have an operation of their own (30_encoding.md R102). -/
def writableOffsets : List Nat := [0x00, 0x08, 0x0C, 0x10, 0x20, 0x28]

/-- The instruction is one that some word encodes. -/
def Instr.wellFormed : Instr → Bool
  | .nop _ | .start _ | .abort _ | .eos _ | .palClear _ | .pop _ => true
  | .cmdReserved cmd _ => 6 ≤ cmd.toNat
  | .wrWidth _ | .wrHeight _ | .wrFormat _ _ _ _ | .wrPalData _ _ _ _ | .wrInData _ _ => true
  | .wrIgnored offset _ => aligned offset && !writableOffsets.contains offset.toNat
  | .rd offset => aligned offset
  | .filterNone | .filterSub | .filterUp | .filterAvg | .filterPaeth => true
  | .filterIllegal ftype => 5 ≤ ftype.toNat
  | .g1 | .g2 | .g4 | .g8 | .g16 | .rgb8 | .rgb16 | .p1 | .p2 | .p4 | .p8 => true
  | .ga8 | .ga16 | .rgba8 | .rgba16 => true
  | .fmtIllegal depth ctype interlace => !(legalPair ctype depth && interlace.toNat == 0)

end Sys2Proof
end

