-- ==== Sys2Proof/Decode.lean ====
section
/-! DEFINITION. Decoding and encoding (spec/30_encoding.md). Decoding is total: every word of a format gives
an instruction or is refused under a name. -/

namespace Sys2Proof

/-- Why a word is no transaction of the block. -/
inductive DecodeError where
  /-- OFFSET[1:0] ≠ 00 (30_encoding.md R101, 20_memory.md R80). -/
  | misaligned (offset : Byte)
  deriving DecidableEq, Repr

/-- The filter-type map of R104. All eight bits take part. -/
def decodeFilter (x : Byte) : Option FilterType :=
  match x.toNat with
  | 0 => some .none
  | 1 => some .sub
  | 2 => some .up
  | 3 => some .avg
  | 4 => some .paeth
  | _ => none

/-- The decode-mode map of R105, by colour type and bit depth. -/
def decodeMode (depth ctype : Byte) : Option Mode :=
  match ctype.toNat, depth.toNat with
  | 0, 1 => some .g1
  | 0, 2 => some .g2
  | 0, 4 => some .g4
  | 0, 8 => some .g8
  | 0, 16 => some .g16
  | 2, 8 => some .rgb8
  | 2, 16 => some .rgb16
  | 3, 1 => some .p1
  | 3, 2 => some .p2
  | 3, 4 => some .p4
  | 3, 8 => some .p8
  | 4, 8 => some .ga8
  | 4, 16 => some .ga16
  | 6, 8 => some .rgba8
  | 6, 16 => some .rgba16
  | _, _ => none

/-- The FMT instruction of a decode mode. -/
def Mode.instr : Mode → Instr
  | .g1 => .g1
  | .g2 => .g2
  | .g4 => .g4
  | .g8 => .g8
  | .g16 => .g16
  | .rgb8 => .rgb8
  | .rgb16 => .rgb16
  | .p1 => .p1
  | .p2 => .p2
  | .p4 => .p4
  | .p8 => .p8
  | .ga8 => .ga8
  | .ga16 => .ga16
  | .rgba8 => .rgba8
  | .rgba16 => .rgba16

/-- The FB instruction of a filter type. -/
def FilterType.instr : FilterType → Instr
  | .none => .filterNone
  | .sub => .filterSub
  | .up => .filterUp
  | .avg => .filterAvg
  | .paeth => .filterPaeth

/-- Format FB (R104): codes 5 to 255 are FILTER_ILLEGAL. -/
def decodeFb (x : Byte) : Instr :=
  match decodeFilter x with
  | some t => t.instr
  | none => .filterIllegal x

/-- BIT_DEPTH, FORMAT[7:0]. -/
def FmtWord.depth (w : FmtWord) : Byte := w.extractLsb' 0 8
/-- COLOR_TYPE, FORMAT[15:8]. -/
def FmtWord.ctype (w : FmtWord) : Byte := w.extractLsb' 8 8
/-- INTERLACE, FORMAT[23:16]. -/
def FmtWord.interlace (w : FmtWord) : Byte := w.extractLsb' 16 8

/-- Format FMT from its three fields (R105): a legal pair with INTERLACE = 0 is a mode, anything else is
FMT_ILLEGAL. -/
def decodeFmtFields (depth ctype interlace : Byte) : Instr :=
  match decodeMode depth ctype with
  | some m => if interlace = 0 then m.instr else .fmtIllegal depth ctype interlace
  | none => .fmtIllegal depth ctype interlace

/-- Format FMT (R105). -/
def decodeFmt (w : FmtWord) : Instr := decodeFmtFields (FmtWord.depth w) (FmtWord.ctype w) (FmtWord.interlace w)

/-- W, bit 40 of a T word. -/
def TWord.isWrite (w : TWord) : Bool := w.getLsbD 40
/-- OFFSET, bits 39:32 of a T word. -/
def TWord.offset (w : TWord) : Byte := w.extractLsb' 32 8
/-- DATA, bits 31:0 of a T word. -/
def TWord.data (w : TWord) : Word := w.extractLsb' 0 32

/-- The command map of R103: CMD in DATA[3:0] of a write to CTRL. -/
def decodeCmd (data : Word) : Instr :=
  let ignored : BitVec 28 := data.extractLsb' 4 28
  let cmd : BitVec 4 := data.extractLsb' 0 4
  match cmd.toNat with
  | 0 => .nop ignored
  | 1 => .start ignored
  | 2 => .abort ignored
  | 3 => .eos ignored
  | 4 => .palClear ignored
  | 5 => .pop ignored
  | _ => .cmdReserved cmd ignored

/-- The register-write map of R102. -/
def decodeWrite (offset : Byte) (data : Word) : Instr :=
  match offset.toNat with
  | 0x00 => decodeCmd data
  | 0x08 => .wrWidth data
  | 0x0C => .wrHeight data
  | 0x10 => .wrFormat (data.extractLsb' 0 8) (data.extractLsb' 8 8) (data.extractLsb' 16 8) (data.extractLsb' 24 8)
  | 0x20 => .wrPalData (data.extractLsb' 0 8) (data.extractLsb' 8 8) (data.extractLsb' 16 8) (data.extractLsb' 24 8)
  | 0x28 => .wrInData (data.extractLsb' 0 8) (data.extractLsb' 8 24)
  | _ => .wrIgnored offset data

/-- Format T (R101, R102). -/
def decodeT (w : TWord) : Except DecodeError Instr :=
  if aligned (TWord.offset w) then
    if TWord.isWrite w then .ok (decodeWrite (TWord.offset w) (TWord.data w)) else .ok (.rd (TWord.offset w))
  else .error (.misaligned (TWord.offset w))

/-- The decoder. Only a misaligned T word is no instruction. -/
def decode : Encoded → Except DecodeError Instr
  | .t w => decodeT w
  | .fb x => .ok (decodeFb x)
  | .fmt w => .ok (decodeFmt w)

/-- A T word from its fields. -/
def TWord.mk (write : Bool) (offset : Byte) (data : Word) : TWord := BitVec.ofBool write ++ (offset ++ data)

/-- A write of a command to CTRL (R100, format CMD). -/
def encodeCmd (cmd : BitVec 4) (ignored : BitVec 28) : Encoded := .t (TWord.mk true 0x00 (ignored ++ cmd))

/-- The encoder, from the maps R102 to R105. -/
def encode : Instr → Encoded
  | .nop ig => encodeCmd 0 ig
  | .start ig => encodeCmd 1 ig
  | .abort ig => encodeCmd 2 ig
  | .eos ig => encodeCmd 3 ig
  | .palClear ig => encodeCmd 4 ig
  | .pop ig => encodeCmd 5 ig
  | .cmdReserved cmd ig => encodeCmd cmd ig
  | .wrWidth w => .t (TWord.mk true 0x08 w)
  | .wrHeight h => .t (TWord.mk true 0x0C h)
  | .wrFormat d c i ig => .t (TWord.mk true 0x10 (ig ++ (i ++ (c ++ d))))
  | .wrPalData r g b ig => .t (TWord.mk true 0x20 (ig ++ (b ++ (g ++ r))))
  | .wrInData x ig => .t (TWord.mk true 0x28 (ig ++ x))
  | .wrIgnored off d => .t (TWord.mk true off d)
  | .rd off => .t (TWord.mk false off 0)
  | .filterNone => .fb 0
  | .filterSub => .fb 1
  | .filterUp => .fb 2
  | .filterAvg => .fb 3
  | .filterPaeth => .fb 4
  | .filterIllegal x => .fb x
  | .g1 => .fmt 0x000001
  | .g2 => .fmt 0x000002
  | .g4 => .fmt 0x000004
  | .g8 => .fmt 0x000008
  | .g16 => .fmt 0x000010
  | .rgb8 => .fmt 0x000208
  | .rgb16 => .fmt 0x000210
  | .p1 => .fmt 0x000301
  | .p2 => .fmt 0x000302
  | .p4 => .fmt 0x000304
  | .p8 => .fmt 0x000308
  | .ga8 => .fmt 0x000408
  | .ga16 => .fmt 0x000410
  | .rgba8 => .fmt 0x000608
  | .rgba16 => .fmt 0x000610
  | .fmtIllegal d c i => .fmt (i ++ (c ++ d))

/-- The instruction of a word of spec/opcode_table.json of `nbits` bits. The formats have different widths
(R100), so the width says which decoder reads the word: 8 bits FB, 24 or 32 bits FMT (FORMAT[31:24] are not
looked at), more than that T. A word with a bit set above its format is none (log 15). -/
def decodeTableWord (nbits w : Nat) : Option Instr :=
  if nbits ≤ 8 then
    if w < 2 ^ 8 then (decode (.fb (BitVec.ofNat 8 w))).toOption else none
  else if nbits ≤ 32 then
    if w < 2 ^ 32 then (decode (.fmt (BitVec.ofNat 24 w))).toOption else none
  else
    if w < 2 ^ 41 then (decode (.t (BitVec.ofNat 41 w))).toOption else none

end Sys2Proof
end

