-- ==== Sys2Proof/Machine/State.lean ====
section
/-! DEFINITION. The state of the block (spec/10_state.md R21), the events the host can cause, the reasons to
stop, and the state after reset (spec/70_reset_and_hazards.md R370). -/

namespace Sys2Proof.Machine

/-- The block states (10_state.md R54). -/
inductive BlockState where
  /-- No decode is active. -/
  | idle
  /-- A decode is active. -/
  | run
  /-- The last pixel has been popped. -/
  | done
  /-- A decode or a transaction failed. -/
  | error
  deriving DecidableEq, Repr

/-- Whether the next stream byte is a filter-type byte or a data byte (10_state.md R21). -/
inductive Phase where
  | filt
  | data
  deriving DecidableEq, Repr

/-- The error kinds (60_exceptions.md R330). The block never raises the two host-side kinds (R335). -/
inductive ErrKind where
  | none
  | signature
  | format
  | compression
  | paletteIndex
  | capacity
  | protocol
  deriving DecidableEq, Repr

/-- One access of the host's bus. It is a transaction of the block only if it is an aligned 32-bit access
inside the window at BASE_ADDR (20_memory.md R80, R83). Register bit i is bus data bit i (R78). -/
structure BusAccess where
  write : Bool
  /-- The host address. -/
  addr : Nat
  /-- The access width in bytes. -/
  bytes : Nat
  /-- The write data. A read's is not looked at. -/
  data : Word
  deriving DecidableEq, Repr

/-- What the outside world can do to the block: a bus access, or asserting the reset input (70 R370). -/
inductive HostEvent where
  | access (a : BusAccess)
  | reset
  deriving DecidableEq, Repr

/-- The state of the machine. All fields down to `errSample` are the variables of 10_state.md R21, under
their names there. `config` holds the OPEN parameters (00_scope.md R6). The last three fields are the model's
own (log 4, log 5, log 6). A memory is a list of (index, value) pairs in the canonical form `Memory.wf`. -/
structure State where
  st : BlockState
  cfgWidth : Word
  cfgHeight : Word
  cfgDepth : Byte
  cfgCtype : Byte
  cfgInterlace : Byte
  /-- Palette memory. -/
  pal : List (Nat × Rgba16)
  /-- The number of valid palette entries, 0 to 256. -/
  palLen : Nat
  /-- Scanlines fully reconstructed in this decode. -/
  row : Word
  phase : Phase
  /-- Data bytes of the current scanline received so far. -/
  col : Word
  /-- The most recent filter-type byte, legal or not. -/
  ftype : Byte
  /-- The last fully reconstructed scanline. -/
  prior : List Host.Cell
  /-- The scanline being reconstructed. -/
  cur : List Host.Cell
  /-- A completed scanline is draining. -/
  pend : Bool
  xcol : Word
  /-- Bits of the unfiltered stream consumed (41_bit_cursor.md R180). -/
  cursor : Wide
  outValid : Bool
  out : Rgba16
  /-- Pixels popped in this decode. -/
  pixels : Wide
  errKind : BitVec 4
  errCause : BitVec 4
  errRow : Word
  errSample : Wide
  /-- ROW_BUF_BYTES and BASE_ADDR. No step changes them. -/
  config : Config
  /-- The host events still to happen, oldest first. -/
  pending : List HostEvent
  /-- The value the most recent RD returned to the host. -/
  rdData : Word
  /-- The stream byte the defilterer is working on. -/
  inByte : Byte
  deriving DecidableEq, Repr

/-- Why the machine stops with a fault. Each is an access or a case that the rules say never occurs
(10_state.md R55), so each is safe: the model stops where the rules give no value. -/
inductive Fault where
  /-- Raised by a row-buffer access at an index that does not exist: negative, or at or above ROW_BUF_BYTES
  (20_memory.md R70, R72). Safe. -/
  | rowIndex (i : Int)
  /-- Raised by a read of a row-buffer byte that nothing has written since reset (10_state.md R55). Safe. -/
  | rowUnwritten (i : Nat)
  /-- Raised by a palette access at an index above 255 (20_memory.md R70). Safe. -/
  | palIndex (k : Nat)
  /-- Raised by a read of a palette entry that nothing has written since reset (10_state.md R55). Safe. -/
  | palUnwritten (k : Nat)
  /-- Raised when a data byte meets an illegal latched filter type (42_defilter.md R203: never). Safe. -/
  | noFilter (ftype : Byte)
  /-- Raised when a byte or a pixel is processed in RUN with no legal mode in FORMAT (44 R283: never). Safe. -/
  | noMode (ctype depth : Byte)
  /-- Raised when a sample of depth below 8 does not fit in its byte (43_sample_extract.md R260: never). Safe. -/
  | straddle (offset : Nat)
  deriving DecidableEq, Repr

/-- Why the machine refuses an event. -/
inductive Refusal where
  /-- Raised by an arm of exec whose instruction has no meaning yet. Safe. -/
  | notModelled (mnemonic : String)
  /-- Raised by step for an access that is not 32 bits wide (20_memory.md R80, 93 H1: refuse). Safe. -/
  | accessWidth (bytes : Nat)
  /-- Raised by step for an access outside the register window (30_encoding.md R108, 93 H1: refuse). Safe. -/
  | outsideWindow (addr : Nat)
  /-- Raised by step for a misaligned access in the window (30_encoding.md R101, 93 H1: refuse). Safe. -/
  | misaligned (offset : Byte)
  deriving DecidableEq, Repr

/-- The outcome of a transaction. -/
abbrev Result := Host.Outcome State Fault Refusal

/-- The state after reset of the implementation with parameters `c` (70 R370). The palette and the row
buffers are unspecified: they list nothing, and reading what nothing has written faults (log 3). -/
def State.resetWith (c : Config) : State where
  st := .idle
  cfgWidth := 0
  cfgHeight := 0
  cfgDepth := 0
  cfgCtype := 0
  cfgInterlace := 0
  pal := []
  palLen := 0
  row := 0
  phase := .filt
  col := 0
  ftype := 0
  prior := []
  cur := []
  pend := false
  xcol := 0
  cursor := 0
  outValid := false
  out := Rgba16.zero
  pixels := 0
  errKind := 0
  errCause := 0
  errRow := 0
  errSample := 0
  config := c
  -- DESIGN CHOICE (log 4, log 5, log 6): the model's own fields.
  pending := []
  rdData := 0
  inByte := 0

/-- The machine right after reset, with the reference parameters (DESIGN CHOICE, log 1, log 2; unsafe). -/
def State.reset : State := State.resetWith Config.reference

end Sys2Proof.Machine
end

