-- ==== Sys2Proof/Machine/Ops.lean ====
section
/-! DEFINITION. The named operations over memories and registers: the memories' canonical form, the row-buffer
and palette primitives (spec/20_memory.md R72, R73), raising an error (spec/60_exceptions.md R336) and leaving
the ERROR state (R339), run-state initialisation (spec/40_host_interface.md R145). -/

namespace Sys2Proof.Machine

/-- A computation inside a transaction: a value, or a fault. -/
abbrev Comp (α : Type) := Except Fault α

/-- The transaction's outcome: the computation's state, or its fault. -/
def toResult : Comp State → Result
  | .ok s => .next s
  | .error f => .fault f

/-! ### Memories -/

/-- The canonical form: addresses strictly rising. An unlisted address has no value, so no entry can equal
what an unlisted address reads as. -/
def Memory.wf {α : Type} : List (Nat × α) → Bool
  | [] => true
  | [_] => true
  | (i, _) :: (j, w) :: m => decide (i < j) && Memory.wf ((j, w) :: m)

/-- What an address reads as; `none` for an unlisted one (log 3). -/
def Memory.read? {α : Type} (m : List (Nat × α)) (i : Nat) : Option α :=
  match m with
  | [] => none
  | (j, v) :: t => if i = j then some v else Memory.read? t i

/-- A write, keeping the canonical form. -/
def Memory.write {α : Type} (m : List (Nat × α)) (i : Nat) (v : α) : List (Nat × α) :=
  match m with
  | [] => [(i, v)]
  | (j, w) :: t =>
    if i < j then (i, v) :: (j, w) :: t
    else if i = j then (i, v) :: t
    else (j, w) :: Memory.write t i v

/-- A sequence of values at the addresses `k`, `k + 1`, …. -/
def Memory.cells {α : Type} (k : Nat) : List α → List (Nat × α)
  | [] => []
  | v :: vs => (k, v) :: Memory.cells (k + 1) vs

/-- The loop `for i in 0 .. n-1: write(i, vs[i])`, for the n values `vs`, done at once. -/
def Memory.fill {α : Type} (m : List (Nat × α)) (vs : List α) : List (Nat × α) :=
  Memory.cells 0 vs ++ m.filter (fun c => decide (vs.length ≤ c.1))

/-- Every address of the memory is below `n`. -/
def Memory.below {α : Type} (m : List (Nat × α)) (n : Nat) : Bool := m.all (fun c => decide (c.1 < n))

/-! ### Row buffers (20_memory.md R72) -/

/-- `RowRead(buf, i)`. An index is computed on mathematical integers (00_scope.md R8). -/
def rowRead (c : Config) (buf : List Host.Cell) (i : Int) : Comp Byte :=
  if 0 ≤ i ∧ i < c.rowBufBytes then
    match Memory.read? buf i.toNat with
    | some v => .ok v
    | none => .error (.rowUnwritten i.toNat)
  else .error (.rowIndex i)

/-- `RowWrite(buf, i, v)`. -/
def rowWrite (c : Config) (buf : List Host.Cell) (i : Nat) (v : Byte) : Comp (List Host.Cell) :=
  if i < c.rowBufBytes then .ok (Memory.write buf i v) else .error (.rowIndex i)

/-- `RowRead(buf, k)` for k = `k`, …, `k + n - 1`. -/
def rowReadMany (c : Config) (buf : List Host.Cell) (k : Nat) : Nat → Comp (List Byte)
  | 0 => .ok []
  | n + 1 => do
    let v ← rowRead c buf k
    let vs ← rowReadMany c buf (k + 1) n
    return v :: vs

/-- `for k in 0 .. RB-1: RowWrite(dst, k, RowRead(src, k))` (42_defilter.md R211). -/
def rowCopy (c : Config) (src dst : List Host.Cell) (rb : Nat) : Comp (List Host.Cell) := do
  let vs ← rowReadMany c src 0 rb
  return Memory.fill dst vs

/-! ### Palette (20_memory.md R73) -/

/-- `PalRead(k)`. -/
def palRead (pal : List (Nat × Rgba16)) (k : Nat) : Comp Rgba16 :=
  if k < 256 then
    match Memory.read? pal k with
    | some p => .ok p
    | none => .error (.palUnwritten k)
  else .error (.palIndex k)

/-! ### Errors -/

/-- The code of an error kind, `STATUS[11:8]` (60_exceptions.md R330). -/
def ErrKind.code : ErrKind → BitVec 4
  | .none => 0
  | .signature => 1
  | .format => 2
  | .compression => 3
  | .paletteIndex => 4
  | .capacity => 5
  | .protocol => 6

/-- `raise Error(kind, cause, r, n)`: the one way an error is taken (60_exceptions.md R336). Nothing else
changes, and nothing is rolled back. -/
def State.raise (s : State) (kind : ErrKind) (cause : BitVec 4) (r : Word) (n : Wide) : State :=
  { s with
    st := .error
    errKind := kind.code
    errCause := cause
    errRow := r
    errSample := n
    outValid := false
    out := Rgba16.zero }

/-- `PE(c) = raise Error(PROTOCOL, c, row, 0)` (40_host_interface.md R130, 60_exceptions.md R334). -/
def State.protocolError (s : State) (cause : BitVec 4) : State := s.raise .protocol cause s.row 0

/-- The error fields cleared, by START and ABORT (40_host_interface.md R137, R138). -/
def State.clearError (s : State) : State :=
  { s with errKind := 0, errCause := 0, errRow := 0, errSample := 0 }

/-- `InitRun()` (40_host_interface.md R145). The bit cursor's RESET (41_bit_cursor.md R183) is part of it. -/
def State.initRun (s : State) : State :=
  { s with
    row := 0
    phase := .filt
    col := 0
    ftype := 0
    pend := false
    xcol := 0
    cursor := 0
    outValid := false
    out := Rgba16.zero
    pixels := 0 }

/-- Leaving ERROR, and any other state, for IDLE (60_exceptions.md R339): what ABORT does (40 R138). There is
no return that resumes the decode. -/
def State.abort (s : State) : State := { s with st := .idle }.initRun.clearError

/-- The reset event (70 R370). The parameters and the events still to happen are not the block's state. -/
def State.hardReset (s : State) : State := { State.resetWith s.config with pending := s.pending }

/-! ### The output register -/

/-- A resolved pixel is placed in the output register (43 R263, 44 R289). -/
def State.setOut (s : State) (p : Rgba16) : State := { s with out := p, outValid := true }

/-- The output register emptied (40 R141). -/
def State.clearOut (s : State) : State := { s with out := Rgba16.zero, outValid := false }

end Sys2Proof.Machine
end

