-- ==== Sys2Proof/Machine/Operands.lean ====
section
/-! DEFINITION. Derived configuration values (spec/10_state.md R22 to R25), the bit cursor
(spec/41_bit_cursor.md), and the operand forms: the neighbours of a byte (spec/42_defilter.md R204), the
sample at the cursor (spec/43_sample_extract.md R251 to R258), the rescaling of a sample
(spec/44_color_resolve.md R280) and the palette entry (R282). -/

namespace Sys2Proof

/-- The colour type of a mode (30_encoding.md R105). -/
def Mode.ctype : Mode → ColorType
  | .g1 | .g2 | .g4 | .g8 | .g16 => .gray
  | .rgb8 | .rgb16 => .rgb
  | .p1 | .p2 | .p4 | .p8 => .indexed
  | .ga8 | .ga16 => .grayAlpha
  | .rgba8 | .rgba16 => .rgbAlpha

/-- The bit depth of a mode (30_encoding.md R105). -/
def Mode.depth : Mode → Depth
  | .g1 | .p1 => .d1
  | .g2 | .p2 => .d2
  | .g4 | .p4 => .d4
  | .g8 | .rgb8 | .p8 | .ga8 | .rgba8 => .d8
  | .g16 | .rgb16 | .ga16 | .rgba16 => .d16

/-- `SPP(ct)`, samples per pixel: the single source of truth of 10_state.md R22. -/
def ColorType.spp : ColorType → Nat
  | .gray => 1
  | .rgb => 3
  | .indexed => 1
  | .grayAlpha => 2
  | .rgbAlpha => 4

/-- The bits of a sample. -/
def Depth.bits : Depth → Nat
  | .d1 => 1
  | .d2 => 2
  | .d4 => 4
  | .d8 => 8
  | .d16 => 16

/-- SPP of a mode. -/
def Mode.spp (m : Mode) : Nat := m.ctype.spp

/-- BITS_PP (10_state.md R23). -/
def Mode.bitsPP (m : Mode) : Nat := m.spp * m.depth.bits

/-- FBPP, the filter look-back distance in bytes (10_state.md R24). -/
def Mode.fbpp (m : Mode) : Nat := max 1 (m.bitsPP / 8)

/-- RB, the bytes of a scanline of the given width (10_state.md R25), "computed without overflow". -/
def Mode.rowBytes (m : Mode) (width : Word) : Nat := (m.bitsPP * width.toNat + 7) / 8

namespace Machine

/-- The decode mode that FORMAT's colour type and depth select, if the pair is legal (10_state.md R26). -/
def State.mode? (s : State) : Option Mode := decodeMode s.cfgDepth s.cfgCtype

/-! ### The bit cursor (41_bit_cursor.md) -/

/-- ADVANCE(n) (R182). -/
def State.advance (s : State) (n : Nat) : State := { s with cursor := s.cursor + BitVec.ofNat 64 n }

/-- The U byte that contains the cursor (R181). -/
def State.byteIndex (s : State) : Nat := s.cursor.toNat / 8

/-- The cursor's bit offset in that byte, from the most significant bit (R181). -/
def State.bitOffset (s : State) : Nat := s.cursor.toNat % 8

/-- ALIGN (R184): advance to the next byte boundary. -/
def State.align (s : State) : State := s.advance ((8 - s.bitOffset) % 8)

/-! ### The neighbours of a byte (42_defilter.md R204) -/

/-- The byte of a row buffer `fbpp` columns before column `i`, or 0 if that is before the row's start. -/
def lookBack (c : Config) (buf : List Host.Cell) (fbpp i : Nat) : Comp Byte :=
  if fbpp ≤ i then rowRead c buf (i - fbpp : Nat) else .ok 0

/-- Left, up and up-left of column `i`, for the look-back distance `fbpp`. -/
def State.neighbours (s : State) (fbpp i : Nat) : Comp (Byte × Byte × Byte) := do
  let a ← lookBack s.config s.cur fbpp i
  let b ← rowRead s.config s.prior i
  let c ← lookBack s.config s.prior fbpp i
  return (a, b, c)

/-! ### Samples (43_sample_extract.md) -/

/-- The row-buffer index of the byte at the cursor, in a draining scanline of `rb` bytes (R258). -/
def State.sampleIndex (s : State) (rb : Nat) : Int := (s.byteIndex : Int) - ((s.row.toNat : Int) - 1) * rb

/-- A sample of depth `d` < 8 at bit offset `o` of a byte, most significant bit first (R251 to R254). -/
def packedSample (d o : Nat) (b : Byte) : Chan := BitVec.ofNat 16 ((b.toNat >>> (8 - o - d)) &&& (2 ^ d - 1))

/-- A sample of depth below 8 at the cursor, read from the byte at index `j` of the draining scanline. -/
def State.packedRead (s : State) (d : Nat) (j : Int) : Comp Chan := do
  let b ← rowRead s.config s.prior j
  if s.bitOffset + d ≤ 8 then .ok (packedSample d s.bitOffset b) else .error (.straddle s.bitOffset)

/-- SAMPLE_D1 (R252). -/
def State.sampleD1 (s : State) (j : Int) : Comp Chan := s.packedRead 1 j
/-- SAMPLE_D2 (R253). -/
def State.sampleD2 (s : State) (j : Int) : Comp Chan := s.packedRead 2 j
/-- SAMPLE_D4 (R254). -/
def State.sampleD4 (s : State) (j : Int) : Comp Chan := s.packedRead 4 j
/-- SAMPLE_D8 (R255). -/
def State.sampleD8 (s : State) (j : Int) : Comp Chan := do
  let b ← rowRead s.config s.prior j
  return b.setWidth 16
/-- SAMPLE_D16 (R256): big-endian. -/
def State.sampleD16 (s : State) (j : Int) : Comp Chan := do
  let hi ← rowRead s.config s.prior j
  let lo ← rowRead s.config s.prior (j + 1)
  return (hi ++ lo : BitVec 16)

/-- The sample of depth `d` at the cursor, by sample width. -/
def State.sampleValue (s : State) (d : Depth) (j : Int) : Comp Chan :=
  match d with
  | .d1 => s.sampleD1 j
  | .d2 => s.sampleD2 j
  | .d4 => s.sampleD4 j
  | .d8 => s.sampleD8 j
  | .d16 => s.sampleD16 j

/-- ReadSample(d) (R251), in a draining scanline of `rb` bytes: the sample and the state after ADVANCE(d). -/
def State.readSample (s : State) (d : Depth) (rb : Nat) : Comp (Chan × State) := do
  let v ← s.sampleValue d (s.sampleIndex rb)
  return (v, s.advance d.bits)

/-- `for k in 0 .. n-1: s[k] <- ReadSample(d)` (R257, R263), in channel order (R250). -/
def State.readSamples (s : State) (d : Depth) (rb : Nat) : Nat → Comp (List Chan × State)
  | 0 => .ok ([], s)
  | n + 1 => do
    let (v, s1) ← s.readSample d rb
    let (vs, s2) ← s1.readSamples d rb n
    return (v :: vs, s2)

/-! ### Rescaling (44_color_resolve.md) -/

/-- `scale16(s, d) = round(s * 65535 / (2^d - 1))` (R280), on integers, to the nearest. -/
def scale16 (v : Chan) (d : Depth) : Chan :=
  let den := 2 ^ d.bits - 1
  BitVec.ofNat 16 ((2 * (v.toNat * 65535) + den) / (2 * den))

/-- `PaletteEntry(R8, G8, B8)` (R282). -/
def paletteEntry (r8 g8 b8 : Byte) : Rgba16 :=
  ⟨scale16 (r8.setWidth 16) .d8, scale16 (g8.setWidth 16) .d8, scale16 (b8.setWidth 16) .d8, 65535⟩

/-! ### Pixels out of the block -/

/-- A pixel written out as bytes: R, G, B, A, each channel big-endian (20_memory.md R79). It binds hosts that
claim the spec's serialisation; no transaction uses it. -/
def serialisePixel (p : Rgba16) : List Byte :=
  [p.r.extractLsb' 8 8, p.r.extractLsb' 0 8, p.g.extractLsb' 8 8, p.g.extractLsb' 0 8,
   p.b.extractLsb' 8 8, p.b.extractLsb' 0 8, p.a.extractLsb' 8 8, p.a.extractLsb' 0 8]

end Machine

end Sys2Proof
end

