-- ==== Sys2Proof/Machine/Flags.lean ====
section
/-! DEFINITION. The status flags and the STATUS register (spec/10_state.md R27, R31). The block has no
arithmetic condition codes (R27). -/

namespace Sys2Proof.Machine

/-- The code of a block state, `STATUS[1:0]` (R31). -/
def BlockState.code : BlockState → BitVec 2
  | .idle => 0
  | .run => 1
  | .done => 2
  | .error => 3

/-- The code of a phase, `STATUS[6]` (R31). -/
def Phase.code : Phase → BitVec 1
  | .filt => 0
  | .data => 1

/-- IN_READY (R27). -/
def State.inReady (s : State) : Bool := s.st = .run && !s.pend && s.row.toNat < s.cfgHeight.toNat

/-- STATUS (R31), most significant field first. -/
def State.status (s : State) : Word :=
  (0 : BitVec 16) ++ (s.errCause ++ (s.errKind ++ (BitVec.ofBool s.pend ++ (s.phase.code ++
    (BitVec.ofBool s.outValid ++ (BitVec.ofBool s.inReady ++ ((0 : BitVec 2) ++ s.st.code)))))))

end Sys2Proof.Machine
end

