-- ==== Sys2Proof/Machine/Modes.lean ====
section
/-! DEFINITION. The FMT family: the 15 decode modes and FMT_ILLEGAL (spec/30_encoding.md R105). A mode word
acts at two places, and the block's state says which (log 8). In IDLE and DONE it is decoded by START
(spec/40_host_interface.md R137). In RUN it is the mode that ExtractNext extracts and resolves one pixel in
(spec/43_sample_extract.md R263, spec/44_color_resolve.md R283). In ERROR it is ignored (R130). -/

namespace Sys2Proof.Machine

/-! ### Resolve, by colour type (44_color_resolve.md). `none` is an index at or above `pal_len`. -/

/-- Sample k of a pixel. ExtractNext reads SPP samples, so every sample a rule names is there. -/
def sample (ss : List Chan) (k : Nat) : Chan := ss.getD k 0

/-- RESOLVE_GRAY (R284). -/
def resolveGray (d : Depth) (ss : List Chan) : Rgba16 :=
  let g := scale16 (sample ss 0) d
  ⟨g, g, g, 65535⟩

/-- RESOLVE_RGB (R285). -/
def resolveRgb (d : Depth) (ss : List Chan) : Rgba16 :=
  ⟨scale16 (sample ss 0) d, scale16 (sample ss 1) d, scale16 (sample ss 2) d, 65535⟩

/-- RESOLVE_INDEXED (R286): the index is checked before the palette is read. -/
def resolveIndexed (s : State) (ss : List Chan) : Comp (Option Rgba16) :=
  let k := (sample ss 0).toNat
  if s.palLen ≤ k then .ok none
  else do
    let p ← palRead s.pal k
    return some p

/-- RESOLVE_GRAYA (R287). -/
def resolveGrayA (d : Depth) (ss : List Chan) : Rgba16 :=
  let g := scale16 (sample ss 0) d
  ⟨g, g, g, scale16 (sample ss 1) d⟩

/-- RESOLVE_RGBA (R288). -/
def resolveRgba (d : Depth) (ss : List Chan) : Rgba16 :=
  ⟨scale16 (sample ss 0) d, scale16 (sample ss 1) d, scale16 (sample ss 2) d, scale16 (sample ss 3) d⟩

/-- Resolve, dispatched on the colour type (R283). -/
def State.resolve (s : State) (ct : ColorType) (d : Depth) (ss : List Chan) : Comp (Option Rgba16) :=
  match ct with
  | .gray => .ok (some (resolveGray d ss))
  | .rgb => .ok (some (resolveRgb d ss))
  | .indexed => resolveIndexed s ss
  | .grayAlpha => .ok (some (resolveGrayA d ss))
  | .rgbAlpha => .ok (some (resolveRgba d ss))

/-! ### Extraction (43_sample_extract.md) -/

/-- The raster position of the pixel at column xcol of the draining scanline (R263). -/
def State.rasterPos (s : State) : Int := ((s.row.toNat : Int) - 1) * s.cfgWidth.toNat + s.xcol.toNat

/-- The pixel is the last of its scanline: xcol = cfg_width - 1 (R259, R263). -/
def State.lastColumn (s : State) : Bool := s.xcol.toNat + 1 = s.cfgWidth.toNat

/-- ExtractNext() in mode `m` (R263). A palette error ends the transaction: the cursor has then advanced past
the sample and ALIGN has not run. -/
def State.extract (s : State) (m : Mode) : Comp State := do
  let n := s.rasterPos
  let (ss, s1) ← s.readSamples m.depth (m.rowBytes s.cfgWidth) m.spp
  match ← s1.resolve m.ctype m.depth ss with
  | some px =>
    let s2 := s1.setOut px
    return if s2.lastColumn then s2.align else s2
  | none => return s1.raise .paletteIndex 0 (s1.row - 1) (BitVec.ofInt 64 n)

/-! ### START in a mode (40_host_interface.md R137) -/

/-- A dimension that a decode may have: 1 to 2^31 - 1. -/
def legalDim (w : Word) : Bool := 1 ≤ w.toNat && w.toNat ≤ 2 ^ 31 - 1

/-- START, once FORMAT is decoded as mode `m`: the checks on the dimensions and the capacity, in R137's order,
and the start of the decode over an all-zero prior row. -/
def State.startMode (s : State) (m : Mode) : State :=
  let s := s.initRun.clearError
  if !(legalDim s.cfgWidth && legalDim s.cfgHeight) then s.raise .format 4 0 0
  else if s.config.rowBufBytes < m.rowBytes s.cfgWidth then s.raise .capacity 0 0 0
  else { s with prior := Memory.fill s.prior (List.replicate (m.rowBytes s.cfgWidth) 0), st := .run }

/-- The cause of the FormatError of an illegal FORMAT, the first check that fails (R137, 60 R340). -/
def formatCause (depth ctype : Byte) : BitVec 4 :=
  if !legalType ctype then 1 else if !legalPair ctype depth then 2 else 3

/-- START, once FORMAT is decoded as illegal. InitRun and the clearing of the error come first (R137). -/
def State.startIllegal (s : State) (depth ctype : Byte) : State :=
  s.initRun.clearError.raise .format (formatCause depth ctype) 0 0

/-- A mode word at work in the state's place. -/
def modeInstr (m : Mode) (s : State) : Result :=
  match s.st with
  | .idle | .done => .next (s.startMode m)
  | .run => toResult (s.extract m)
  | .error => .next s

/-! ### The meanings -/

/-- G1: grayscale, depth 1 (R105, R252, R284). -/
def execG1 (s : State) : Result := modeInstr .g1 s
/-- G2: grayscale, depth 2 (R105, R253, R284). -/
def execG2 (s : State) : Result := modeInstr .g2 s
/-- G4: grayscale, depth 4 (R105, R254, R284). -/
def execG4 (s : State) : Result := modeInstr .g4 s
/-- G8: grayscale, depth 8 (R105, R255, R284). -/
def execG8 (s : State) : Result := modeInstr .g8 s
/-- G16: grayscale, depth 16 (R105, R256, R284). -/
def execG16 (s : State) : Result := modeInstr .g16 s
/-- RGB8: truecolor, depth 8 (R105, R255, R285). -/
def execRgb8 (s : State) : Result := modeInstr .rgb8 s
/-- RGB16: truecolor, depth 16 (R105, R256, R285). -/
def execRgb16 (s : State) : Result := modeInstr .rgb16 s
/-- P1: indexed, depth 1 (R105, R252, R286). -/
def execP1 (s : State) : Result := modeInstr .p1 s
/-- P2: indexed, depth 2 (R105, R253, R286). -/
def execP2 (s : State) : Result := modeInstr .p2 s
/-- P4: indexed, depth 4 (R105, R254, R286). -/
def execP4 (s : State) : Result := modeInstr .p4 s
/-- P8: indexed, depth 8 (R105, R255, R286). -/
def execP8 (s : State) : Result := modeInstr .p8 s
/-- GA8: grayscale and alpha, depth 8 (R105, R255, R287). -/
def execGa8 (s : State) : Result := modeInstr .ga8 s
/-- GA16: grayscale and alpha, depth 16 (R105, R256, R287). -/
def execGa16 (s : State) : Result := modeInstr .ga16 s
/-- RGBA8: truecolor and alpha, depth 8 (R105, R255, R288). -/
def execRgba8 (s : State) : Result := modeInstr .rgba8 s
/-- RGBA16: truecolor and alpha, depth 16 (R105, R256, R288). -/
def execRgba16 (s : State) : Result := modeInstr .rgba16 s

/-- FMT_ILLEGAL (R105, 60_exceptions.md R331): START raises FormatError cause 1, 2 or 3. No pixel is extracted
in such a format (44 R283). -/
def execFmtIllegal (depth ctype _interlace : Byte) (s : State) : Result :=
  match s.st with
  | .idle | .done => .next (s.startIllegal depth ctype)
  | .run => .fault (.noMode ctype depth)
  | .error => .next s

/-- The instruction of a mode, run. -/
def runMode (m : Mode) (s : State) : Result :=
  match m with
  | .g1 => execG1 s
  | .g2 => execG2 s
  | .g4 => execG4 s
  | .g8 => execG8 s
  | .g16 => execG16 s
  | .rgb8 => execRgb8 s
  | .rgb16 => execRgb16 s
  | .p1 => execP1 s
  | .p2 => execP2 s
  | .p4 => execP4 s
  | .p8 => execP8 s
  | .ga8 => execGa8 s
  | .ga16 => execGa16 s
  | .rgba8 => execRgba8 s
  | .rgba16 => execRgba16 s

/-- START's decoding of FORMAT (R105, R137): a legal pair with INTERLACE = 0 is its mode. -/
def runFormat (s : State) : Result :=
  match s.mode? with
  | some m =>
    if s.cfgInterlace = 0 then runMode m s else execFmtIllegal s.cfgDepth s.cfgCtype s.cfgInterlace s
  | none => execFmtIllegal s.cfgDepth s.cfgCtype s.cfgInterlace s

/-- ExtractNext() (43 R263), in the mode that FORMAT selects. It looks at the colour type and the depth only. -/
def extractNext (s : State) : Result :=
  match s.mode? with
  | some m => runMode m s
  | none => execFmtIllegal s.cfgDepth s.cfgCtype s.cfgInterlace s

end Sys2Proof.Machine
end

