-- ==== Sys2Proof/Machine/Filters.lean ====
section
/-! DEFINITION. The FB family: the scanline defilterer (spec/42_defilter.md). A filter-type byte acts at two
places, and the phase says which (log 7). In phase FILT it is the byte that arrives: it is latched in `ftype`
(R202). In phase DATA it is the latched filter type, and reconstructs the data byte at hand (R203). Both lie
inside WR_IN_DATA's checks (spec/40_host_interface.md R135, R201). -/

namespace Sys2Proof.Machine

/-! ### The reconstruction rules (R205 to R212): the filtered byte, left, up, up-left. Only the final sum is
taken modulo 256; the predictors are computed on integers (R212). -/

/-- NONE (R205). -/
def reconNone (x _a _b _c : Byte) : Byte := x

/-- SUB (R206). -/
def reconSub (x a _b _c : Byte) : Byte := x + a

/-- UP (R207). -/
def reconUp (x _a b _c : Byte) : Byte := x + b

/-- AVG (R208): the sum a + b does not wrap. -/
def reconAvg (x a b _c : Byte) : Byte := x + BitVec.ofNat 8 ((a.toNat + b.toNat) / 2)

/-- The Paeth predictor (R210), on mathematical integers, ties to a, then b, then c. -/
def paeth (a b c : Byte) : Byte :=
  let p : Int := (a.toNat : Int) + b.toNat - c.toNat
  let pa := (p - a.toNat).natAbs
  let pb := (p - b.toNat).natAbs
  let pc := (p - c.toNat).natAbs
  if pa ≤ pb ∧ pa ≤ pc then a else if pb ≤ pc then b else c

/-- PAETH (R209). -/
def reconPaeth (x a b c : Byte) : Byte := x + paeth a b c

/-! ### Rows and bytes -/

/-- CompleteRow() (R211), for scanlines of `rb` bytes: the row is handed to the extractor, and its first pixel
is extracted. -/
def completeRow (rb : Nat) (s : State) : Result :=
  match rowCopy s.config s.cur s.prior rb with
  | .error f => .fault f
  | .ok prior =>
    extractNext
      { s with
        prior := prior
        row := s.row + 1
        phase := .filt
        col := 0
        pend := true
        xcol := 0 }

/-- The reconstruction and the store of DataByte(x) (R203), in mode `m`: `col` is incremented. -/
def State.reconstruct (s : State) (m : Mode) (recon : Byte → Byte → Byte → Byte → Byte) (x : Byte) :
    Comp State := do
  let (a, b, c) ← s.neighbours m.fbpp s.col.toNat
  let cur ← rowWrite s.config s.cur s.col.toNat (recon x a b c)
  return { s with cur := cur, col := s.col + 1 }

/-- DataByte(x) (R203), under the reconstruction rule of the latched filter type. -/
def dataByte (recon : Byte → Byte → Byte → Byte → Byte) (x : Byte) (s : State) : Result :=
  match s.mode? with
  | none => .fault (.noMode s.cfgCtype s.cfgDepth)
  | some m =>
    match s.reconstruct m recon x with
    | .error f => .fault f
    | .ok t =>
      if t.col.toNat = m.rowBytes t.cfgWidth then completeRow (m.rowBytes t.cfgWidth) t else .next t

/-- FilterByte(x) (R202). -/
def State.filterByte (s : State) (x : Byte) : State :=
  let s := { s with ftype := x }
  if 4 < x.toNat then s.raise .format 5 s.row 0 else { s with phase := .data, col := 0 }

/-- The checks in front of every stream byte: the block's state (40 R135), then the last scanline, then the
draining one (42 R201). -/
def inDataGate (k : State → Result) (s : State) : Result :=
  match s.st with
  | .idle => .next (s.protocolError 3)
  | .run =>
    if s.row = s.cfgHeight then .next s
    else if s.pend then .next (s.protocolError 4)
    else k s
  | .done | .error => .next s

/-- A legal filter-type byte at work in the phase's place. -/
def filterInstr (code : Byte) (recon : Byte → Byte → Byte → Byte → Byte) (s : State) : Result :=
  inDataGate
    (fun s =>
      match s.phase with
      | .filt => .next (s.filterByte code)
      | .data => dataByte recon s.inByte s)
    s

/-! ### The meanings -/

/-- NONE, filter type 0 (R205). -/
def execFilterNone (s : State) : Result := filterInstr 0 reconNone s
/-- SUB, filter type 1 (R206). -/
def execFilterSub (s : State) : Result := filterInstr 1 reconSub s
/-- UP, filter type 2 (R207). -/
def execFilterUp (s : State) : Result := filterInstr 2 reconUp s
/-- AVG, filter type 3 (R208). -/
def execFilterAvg (s : State) : Result := filterInstr 3 reconAvg s
/-- PAETH, filter type 4 (R209). -/
def execFilterPaeth (s : State) : Result := filterInstr 4 reconPaeth s

/-- FILTER_ILLEGAL, filter types 5 to 255 (R202): FormatError cause 5, with the byte latched and the phase
kept. No data byte is reconstructed under it (R203). -/
def execFilterIllegal (ftype : Byte) (s : State) : Result :=
  inDataGate
    (fun s =>
      match s.phase with
      | .filt => .next (s.filterByte ftype)
      | .data => .fault (.noFilter ftype))
    s

/-- The filter instruction of a byte, run (30_encoding.md R104). -/
def runFilter (x : Byte) (s : State) : Result :=
  match decodeFilter x with
  | some .none => execFilterNone s
  | some .sub => execFilterSub s
  | some .up => execFilterUp s
  | some .avg => execFilterAvg s
  | some .paeth => execFilterPaeth s
  | none => execFilterIllegal x s

/-- The filter-type byte that decides what is done with stream byte `x` (30_encoding.md R109): `x` itself in
filter position, the latched one in data position. -/
def State.filterCode (s : State) (x : Byte) : Byte :=
  match s.phase with
  | .filt => x
  | .data => s.ftype

end Sys2Proof.Machine
end

