-- ==== Sys2Proof/Machine/Registers.lean ====
section
/-! DEFINITION. The register transactions of format T: RD, the register writes and the ignored writes
(spec/10_state.md R29 to R50, spec/40_host_interface.md R130 to R135, R143, R144). -/

namespace Sys2Proof.Machine

/-! ### Reads -/

/-- FORMAT (10_state.md R34). -/
def State.format (s : State) : Word := (0 : Byte) ++ (s.cfgInterlace ++ (s.cfgCtype ++ s.cfgDepth))

/-- GEOM (R35): 0 for an illegal pair. -/
def State.geom (s : State) : Word :=
  match s.mode? with
  | some m =>
    (0 : BitVec 17) ++ (BitVec.ofNat 7 m.bitsPP ++ (BitVec.ofNat 4 m.fbpp ++ ((1 : BitVec 1) ++ BitVec.ofNat 3 m.spp))) 
  | none => 0

/-- RB as ROW_BYTES_HI:ROW_BYTES_LO show it (R36): 0 for an illegal pair. -/
def State.rowBytes (s : State) : Nat :=
  match s.mode? with
  | some m => m.rowBytes s.cfgWidth
  | none => 0

/-- OUT_RG (R40, 44 R289). -/
def State.outRg (s : State) : Word := if s.outValid then s.out.g ++ s.out.r else 0

/-- OUT_BA (R41, 44 R289). -/
def State.outBa (s : State) : Word := if s.outValid then s.out.a ++ s.out.b else 0

/-- The low half of a 64-bit register (R45, R46, R48). -/
def lo32 (v : Wide) : Word := v.extractLsb' 0 32
/-- The high half of a 64-bit register (R45, R46, R48). -/
def hi32 (v : Wide) : Word := v.extractLsb' 32 32

/-- The register map (R29). CTRL, PAL_DATA, IN_DATA and the unused offsets read 0 (R28, R50). -/
def State.regRead (s : State) (offset : Byte) : Word :=
  match offset.toNat with
  | 0x04 => s.status
  | 0x08 => s.cfgWidth
  | 0x0C => s.cfgHeight
  | 0x10 => s.format
  | 0x14 => s.geom
  | 0x18 => BitVec.ofNat 32 s.rowBytes
  | 0x1C => BitVec.ofNat 32 (s.rowBytes / 2 ^ 32)
  | 0x24 => BitVec.ofNat 32 (s.palLen % 2 ^ 9)
  | 0x2C => s.outRg
  | 0x30 => s.outBa
  | 0x34 => s.row
  | 0x38 => s.col
  | 0x3C => s.ftype.setWidth 32
  | 0x40 => lo32 s.cursor
  | 0x44 => hi32 s.cursor
  | 0x48 => lo32 s.pixels
  | 0x4C => hi32 s.pixels
  | 0x50 => s.errRow
  | 0x54 => lo32 s.errSample
  | 0x58 => hi32 s.errSample
  | 0x5C => s.xcol
  | _ => 0

/-- The pixel a host reads in OUT_RG and OUT_BA, if one is held (30_encoding.md R111, 40 R146). -/
def State.heldPixel? (s : State) : Option Rgba16 := if s.outValid then some s.out else none

/-- RD (40 R143): the value of the register, and no other effect (log 5). -/
def execRd (offset : Byte) (s : State) : Result := .next { s with rdData := s.regRead offset }

/-! ### Writes -/

/-- A write that is legal in IDLE and DONE, raises PE(c) in RUN and is ignored in ERROR (40 R130). -/
def idleWrite (cause : BitVec 4) (f : State → State) (s : State) : Result :=
  match s.st with
  | .idle | .done => .next (f s)
  | .run => .next (s.protocolError cause)
  | .error => .next s

/-- WR_WIDTH (R131). -/
def execWrWidth (width : Word) (s : State) : Result := idleWrite 1 (fun s => { s with cfgWidth := width }) s

/-- WR_HEIGHT (R132). -/
def execWrHeight (height : Word) (s : State) : Result := idleWrite 1 (fun s => { s with cfgHeight := height }) s

/-- WR_FORMAT (R133). DATA[31:24] are dropped. -/
def execWrFormat (depth ctype interlace _ignored : Byte) (s : State) : Result :=
  idleWrite 1 (fun s => { s with cfgDepth := depth, cfgCtype := ctype, cfgInterlace := interlace }) s

/-- A palette entry appended, or dropped when 256 are loaded (R134). -/
def State.palAppend (s : State) (p : Rgba16) : State :=
  if s.palLen < 256 then { s with pal := Memory.write s.pal s.palLen p, palLen := s.palLen + 1 } else s

/-- WR_PAL_DATA (R134). DATA[31:24] are ignored. -/
def execWrPalData (r8 g8 b8 _ignored : Byte) (s : State) : Result :=
  idleWrite 2 (fun s => s.palAppend (paletteEntry r8 g8 b8)) s

/-- WR_IN_DATA (R135): DefilterInput (42 R201) of the byte, done by the filter instruction in force. -/
def execWrInData (byte : Byte) (_ignored : BitVec 24) (s : State) : Result :=
  inDataGate (fun s => runFilter (s.filterCode byte) { s with inByte := byte }) s

/-- WR_IGNORED (R144): no effect in any state. -/
def execWrIgnored (_offset : Byte) (_data : Word) (s : State) : Result := .next s

end Sys2Proof.Machine
end

