-- ==== Sys2Proof/Machine/Commands.lean ====
section
/-! DEFINITION. The commands of CTRL (spec/40_host_interface.md R136 to R142). -/

namespace Sys2Proof.Machine

/-- NOP (R136). -/
def execNop (_ignored : BitVec 28) (s : State) : Result := .next s

/-- START (R137): FORMAT is decoded, and the mode's START or the illegal format's error follows. -/
def execStart (_ignored : BitVec 28) (s : State) : Result :=
  match s.st with
  | .idle | .done => runFormat s
  | .run => .next (s.protocolError 7)
  | .error => .next s

/-- ABORT (R138). -/
def execAbort (_ignored : BitVec 28) (s : State) : Result := .next s.abort

/-- EOS (R139): a truncated stream is FormatError cause 6. -/
def execEos (_ignored : BitVec 28) (s : State) : Result :=
  match s.st with
  | .idle => .next (s.protocolError 8)
  | .run => .next (if s.row.toNat < s.cfgHeight.toNat then s.raise .format 6 s.row 0 else s)
  | .done | .error => .next s

/-- PAL_CLEAR (R140). The entries keep their contents. -/
def execPalClear (_ignored : BitVec 28) (s : State) : Result := idleWrite 2 (fun s => { s with palLen := 0 }) s

/-- The effect of a POP that passes its check (R141). -/
def popPixel (s : State) : Result :=
  let s := { s with pixels := s.pixels + 1 }.clearOut
  if s.xcol.toNat + 1 < s.cfgWidth.toNat then extractNext { s with xcol := s.xcol + 1 }
  else
    let s := { s with pend := false, xcol := 0 }
    .next (if s.row = s.cfgHeight then { s with st := .done } else s)

/-- POP (R141). -/
def execPop (_ignored : BitVec 28) (s : State) : Result :=
  match s.st with
  | .idle | .done => .next (s.protocolError 5)
  | .run => if s.outValid then popPixel s else .next (s.protocolError 5)
  | .error => .next s

/-- CMD 6 to 15 (R142). -/
def execCmdReserved (_cmd : BitVec 4) (_ignored : BitVec 28) (s : State) : Result :=
  match s.st with
  | .idle | .run | .done => .next (s.protocolError 6)
  | .error => .next s

end Sys2Proof.Machine
end

