-- ==== Sys2Proof/Machine/Dispatch.lean ====
section
/-! DEFINITION. The dispatch: one arm for each constructor of Instr. -/

namespace Sys2Proof.Machine

def exec (i : Instr) (s : State) : Host.Outcome State Fault Refusal :=
  match i with
  -- Format T, commands (40_host_interface.md R136 to R142)
  | .nop ig => Sys2Proof.Machine.execNop ig s
  | .start ig => Sys2Proof.Machine.execStart ig s
  | .abort ig => Sys2Proof.Machine.execAbort ig s
  | .eos ig => Sys2Proof.Machine.execEos ig s
  | .palClear ig => Sys2Proof.Machine.execPalClear ig s
  | .pop ig => Sys2Proof.Machine.execPop ig s
  | .cmdReserved cmd ig => Sys2Proof.Machine.execCmdReserved cmd ig s
  -- Format T, register accesses (R131 to R135, R143, R144)
  | .wrWidth w => Sys2Proof.Machine.execWrWidth w s
  | .wrHeight h => Sys2Proof.Machine.execWrHeight h s
  | .wrFormat d c il ig => Sys2Proof.Machine.execWrFormat d c il ig s
  | .wrPalData r g b ig => Sys2Proof.Machine.execWrPalData r g b ig s
  | .wrInData x ig => Sys2Proof.Machine.execWrInData x ig s
  | .wrIgnored off d => Sys2Proof.Machine.execWrIgnored off d s
  | .rd off => Sys2Proof.Machine.execRd off s
  -- Format FB (42_defilter.md R202 to R209)
  | .filterNone => Sys2Proof.Machine.execFilterNone s
  | .filterSub => Sys2Proof.Machine.execFilterSub s
  | .filterUp => Sys2Proof.Machine.execFilterUp s
  | .filterAvg => Sys2Proof.Machine.execFilterAvg s
  | .filterPaeth => Sys2Proof.Machine.execFilterPaeth s
  | .filterIllegal x => Sys2Proof.Machine.execFilterIllegal x s
  -- Format FMT (30_encoding.md R105, 44_color_resolve.md R284 to R288)
  | .g1 => Sys2Proof.Machine.execG1 s
  | .g2 => Sys2Proof.Machine.execG2 s
  | .g4 => Sys2Proof.Machine.execG4 s
  | .g8 => Sys2Proof.Machine.execG8 s
  | .g16 => Sys2Proof.Machine.execG16 s
  | .rgb8 => Sys2Proof.Machine.execRgb8 s
  | .rgb16 => Sys2Proof.Machine.execRgb16 s
  | .p1 => Sys2Proof.Machine.execP1 s
  | .p2 => Sys2Proof.Machine.execP2 s
  | .p4 => Sys2Proof.Machine.execP4 s
  | .p8 => Sys2Proof.Machine.execP8 s
  | .ga8 => Sys2Proof.Machine.execGa8 s
  | .ga16 => Sys2Proof.Machine.execGa16 s
  | .rgba8 => Sys2Proof.Machine.execRgba8 s
  | .rgba16 => Sys2Proof.Machine.execRgba16 s
  | .fmtIllegal d c il => Sys2Proof.Machine.execFmtIllegal d c il s

end Sys2Proof.Machine
end

