-- ==== Sys2Proof/Machine/Events.lean ====
section
/-! DEFINITION. The block's bus interface: which host access is a transaction of the block and which T word
it is (spec/20_memory.md R78, R80, R83; spec/30_encoding.md R101), the fetch of an event and its effect. Step.lean
only calls it. -/

namespace Sys2Proof.Machine

/-- The T word of a bus access: a 32-bit access inside the window at BASE_ADDR. Any other access is refused
(20 R80, 30 R108). -/
def BusAccess.word (a : BusAccess) (c : Config) : Except Refusal TWord :=
  if a.bytes = 4 then
    if c.baseAddr ≤ a.addr ∧ a.addr < c.baseAddr + 256 then
      .ok (TWord.mk a.write (BitVec.ofNat 8 (a.addr - c.baseAddr)) a.data)
    else .error (.outsideWindow a.addr)
  else .error (.accessWidth a.bytes)

/-- The instruction of a bus access. -/
def BusAccess.instr (a : BusAccess) (c : Config) : Except Refusal Instr :=
  match a.word c with
  | .ok w =>
    match decode (.t w) with
    | .ok i => .ok i
    | .error (.misaligned off) => .error (.misaligned off)
  | .error r => .error r

/-- The bus access that carries a T word. -/
def BusAccess.ofWord (w : TWord) (c : Config) : BusAccess :=
  { write := TWord.isWrite w, addr := c.baseAddr + (TWord.offset w).toNat, bytes := 4, data := TWord.data w }

/-- A bus access carried out, in the state the queue leaves. -/
def runAccess (a : BusAccess) (s : State) : Result :=
  match a.instr s.config with
  | .ok i => exec i s
  | .error r => .refused r

/-- The oldest event of the queue, taken and carried out. With none the block holds its state: it has no
autonomous step (10_state.md R20, 60 R348). -/
def runPending (s : State) : Result :=
  match s.pending with
  | [] => .next s
  | .reset :: rest => .next { s with pending := rest }.hardReset
  | .access a :: rest => runAccess a { s with pending := rest }

/-! ### Placing an instruction where the next step finds it (log 9) -/

/-- The event put in front of the queue. -/
def State.enqueueFirst (s : State) (e : HostEvent) : State := { s with pending := e :: s.pending }

/-- A write of `data` to offset `off`, as a bus access. -/
def State.writeAccess (s : State) (off : Byte) (data : Word) : BusAccess :=
  { write := true, addr := s.config.baseAddr + off.toNat, bytes := 4, data := data }

/-- A state in which the next stream byte is a filter-type byte. A state that is in one already is unchanged;
any other is put into a decode of a 1×1 image in mode G8, before its first byte. -/
def State.atFilterByte (s : State) : State :=
  if s.st = .run ∧ s.pend = false ∧ s.row ≠ s.cfgHeight ∧ s.phase = .filt then s
  else
    { s.initRun.clearError with
      st := .run
      cfgWidth := 1
      cfgHeight := 1
      cfgDepth := 8
      cfgCtype := 0
      cfgInterlace := 0
      prior := Memory.fill s.prior [0] }

/-- A dimension START accepts: the given one, or 1. -/
def startDim (w : Word) : Word := if legalDim w then w else 1

/-- A state in which START decodes the given FORMAT word: the word is in FORMAT, the dimensions are ones that
START accepts, and a decode or an error that would keep START from it is aborted. -/
def State.atStart (s : State) (w : FmtWord) : State :=
  let s := if s.st = .idle ∨ s.st = .done then s else s.abort
  { s with
    cfgWidth := startDim s.cfgWidth
    cfgHeight := startDim s.cfgHeight
    cfgDepth := FmtWord.depth w
    cfgCtype := FmtWord.ctype w
    cfgInterlace := FmtWord.interlace w }

/-- The word placed so that the next step runs its instruction. A T word is the host's next transaction. A
filter-type byte is the next byte written to IN_DATA, in filter position. A mode word stands in FORMAT, and
START is the next transaction. A number with bits above its format is an access that is no transaction. -/
def State.place (s : State) (nbits w : Nat) : State :=
  if nbits ≤ 8 then
    if w < 2 ^ 8 then
      let s := s.atFilterByte
      s.enqueueFirst (.access (s.writeAccess 0x28 (BitVec.ofNat 32 w)))
    else s.enqueueFirst (.access { write := true, addr := s.config.baseAddr, bytes := 8, data := 0 })
  else if nbits ≤ 32 then
    if w < 2 ^ 32 then
      let s := s.atStart (BitVec.ofNat 24 w)
      s.enqueueFirst (.access (s.writeAccess 0x00 1))
    else s.enqueueFirst (.access { write := true, addr := s.config.baseAddr, bytes := 8, data := 0 })
  else
    if w < 2 ^ 41 then s.enqueueFirst (.access (BusAccess.ofWord (BitVec.ofNat 41 w) s.config))
    else s.enqueueFirst (.access { write := true, addr := s.config.baseAddr, bytes := 8, data := 0 })

end Sys2Proof.Machine
end

