-- ==== Sys2Proof/Machine/Step.lean ====
section
/-! DEFINITION. One step of the machine: the host's next event, carried out whole (spec/10_state.md R20,
spec/20_memory.md R85, R87). -/

namespace Sys2Proof.Machine

/-- One step: a transaction, a reset, or nothing. -/
def step (s : State) : Host.Outcome State Fault Refusal := runPending s

/-- `s` with the instruction of an opcode-table word placed where the next step finds it (log 9). -/
def State.withFetchWord (s : State) (nbits w : Nat) : State := s.place nbits w

end Sys2Proof.Machine
end

