-- ==== Sys2Proof/Machine/HostProgram.lean ====
section
/-! DEFINITION. Host programs (spec/30_encoding.md R110, R111): the base statements and the pseudo-instructions,
with their exact expansions into T words, and the host sequence of a decode (spec/70_reset_and_hazards.md
R372). A program reaches the machine as the events of the queue. -/

namespace Sys2Proof.Machine

/-- The registers of the window by name (10_state.md R29). -/
inductive Reg where
  | ctrl | status | width | height | format | geom | rowBytesLo | rowBytesHi | palData | palLen | inData
  | outRg | outBa | row | col | filter | cursorLo | cursorHi | pixelsLo | pixelsHi | errRow
  | errSampleLo | errSampleHi | xcol
  deriving DecidableEq, Repr

/-- The offset of a register (10_state.md R29). -/
def Reg.offset : Reg → Byte
  | .ctrl => 0x00
  | .status => 0x04
  | .width => 0x08
  | .height => 0x0C
  | .format => 0x10
  | .geom => 0x14
  | .rowBytesLo => 0x18
  | .rowBytesHi => 0x1C
  | .palData => 0x20
  | .palLen => 0x24
  | .inData => 0x28
  | .outRg => 0x2C
  | .outBa => 0x30
  | .row => 0x34
  | .col => 0x38
  | .filter => 0x3C
  | .cursorLo => 0x40
  | .cursorHi => 0x44
  | .pixelsLo => 0x48
  | .pixelsHi => 0x4C
  | .errRow => 0x50
  | .errSampleLo => 0x54
  | .errSampleHi => 0x58
  | .xcol => 0x5C

/-- A statement of a host program (R110, R111). -/
inductive HostStmt where
  | wr (reg : Reg) (value : Word)
  | rd (reg : Reg)
  | nop
  | start
  | abort
  | eos
  | palclr
  | pop
  | inBytes (bytes : List Byte)
  | scan (filter : Byte) (bytes : List Byte)
  | pal (r g b : Byte)
  | fmt (depth ctype interlace : Byte)
  | cfg (width height : Word) (depth ctype : Byte)
  | take (n : Nat)
  deriving DecidableEq, Repr

/-- The T word of a register write (R110). -/
def wrWord (reg : Reg) (value : Word) : TWord := TWord.mk true reg.offset value

/-- The T word of a register read (R110). -/
def rdWord (reg : Reg) : TWord := TWord.mk false reg.offset 0

/-- The FORMAT value `(il << 16) | (ctype << 8) | depth` (R111). -/
def formatWord (depth ctype interlace : Byte) : Word := (0 : Byte) ++ (interlace ++ (ctype ++ depth))

/-- The expansion of a statement (R110, R111). -/
def HostStmt.expand : HostStmt → List TWord
  | .wr reg v => [wrWord reg v]
  | .rd reg => [rdWord reg]
  | .nop => [wrWord .ctrl 0]
  | .start => [wrWord .ctrl 1]
  | .abort => [wrWord .ctrl 2]
  | .eos => [wrWord .ctrl 3]
  | .palclr => [wrWord .ctrl 4]
  | .pop => [wrWord .ctrl 5]
  | .inBytes bs => bs.map (fun b => wrWord .inData (b.setWidth 32))
  | .scan f ds => (f :: ds).map (fun b => wrWord .inData (b.setWidth 32))
  | .pal r g b => [wrWord .palData ((0 : Byte) ++ (b ++ (g ++ r)))]
  | .fmt d c il => [wrWord .format (formatWord d c il)]
  | .cfg w h d c => [wrWord .width w, wrWord .height h, wrWord .format (formatWord d c 0)]
  | .take n => (List.replicate n [rdWord .outRg, rdWord .outBa, wrWord .ctrl 5]).flatten

/-- The events of a program, for an implementation with parameters `c`. -/
def programEvents (c : Config) (p : List HostStmt) : List HostEvent :=
  (p.flatMap HostStmt.expand).map (fun w => .access (BusAccess.ofWord w c))

/-- The state about to run a program. -/
def State.load (s : State) (p : List HostStmt) : State := { s with pending := programEvents s.config p }

/-- The host sequence of a decode (70 R372, steps 3 to 9), issued by the host that counts instead of polling
(70 R374): after the 1 + RB bytes of a scanline it takes exactly `width` pixels. -/
def decodeProgram (width height : Word) (depth ctype interlace : Byte) (palette : List (Byte × Byte × Byte))
    (scanlines : List (Byte × List Byte)) : List HostStmt :=
  [.abort, .wr .width width, .wr .height height, .fmt depth ctype interlace, .palclr]
    ++ palette.map (fun p => .pal p.1 p.2.1 p.2.2)
    ++ [.start]
    ++ scanlines.flatMap (fun l => [.scan l.1 l.2, .take width.toNat])
    ++ [.eos]

end Sys2Proof.Machine
end

