-- ==== Sys2Proof/Safety.lean ====
section
/-! DEFINITION. What claims are stated in terms of: the invariant of the machine (spec/10_state.md R55, R56),
the safe runs, and the reference decode of a scanline and of an image, written over plain lists and bit
positions, apart from the machine's own registers (spec/42_defilter.md, spec/43_sample_extract.md R257). -/

namespace Sys2Proof.Machine

/-! ### The invariant -/

/-- The first `n` cells of a memory hold a value. -/
abbrev Memory.full {α : Type} (m : List (Nat × α)) (n : Nat) : Prop := ∀ i < n, (Memory.read? m i).isSome = true

/-- The cursor after the pixel at column xcol is extracted: at the next pixel, or past the padding (43 R259). -/
def State.cursorAfter (s : State) (m : Mode) : Nat :=
  if s.xcol.toNat + 1 = s.cfgWidth.toNat then s.row.toNat * m.rowBytes s.cfgWidth * 8
  else (s.row.toNat - 1) * m.rowBytes s.cfgWidth * 8 + (s.xcol.toNat + 1) * m.bitsPP

/-- What holds in RUN, in mode `m` (R56, and R55 for the row buffers). -/
structure State.RunInv (s : State) (m : Mode) : Prop where
  mode : s.mode? = some m
  interlace : s.cfgInterlace = 0
  width : legalDim s.cfgWidth = true
  height : legalDim s.cfgHeight = true
  capacity : m.rowBytes s.cfgWidth ≤ s.config.rowBufBytes
  row_le : s.row.toNat ≤ s.cfgHeight.toNat
  col_lt : s.col.toNat < m.rowBytes s.cfgWidth
  prior_full : Memory.full s.prior (m.rowBytes s.cfgWidth)
  cur_full : Memory.full s.cur s.col.toNat
  ftype_legal : s.phase = .data → s.ftype.toNat ≤ 4
  filling : s.pend = false →
    s.row.toNat < s.cfgHeight.toNat ∧
    s.cursor.toNat = s.row.toNat * m.rowBytes s.cfgWidth * 8 ∧
    s.pixels.toNat = s.row.toNat * s.cfgWidth.toNat
  draining : s.pend = true →
    1 ≤ s.row.toNat ∧
    s.xcol.toNat < s.cfgWidth.toNat ∧
    s.outValid = true ∧
    s.phase = .filt ∧
    s.cursor.toNat = s.cursorAfter m ∧
    s.pixels.toNat = (s.row.toNat - 1) * s.cfgWidth.toNat + s.xcol.toNat

/-- The (kind, cause) pairs that the block raises (60_exceptions.md R331 to R334). -/
def raisedCode (kind cause : BitVec 4) : Bool :=
  (kind == 2 && 1 ≤ cause.toNat && cause.toNat ≤ 6) || (kind == 4 && cause == 0) || (kind == 5 && cause == 0)
    || (kind == 6 && 1 ≤ cause.toNat && cause.toNat ≤ 8)

/-- The invariant of the machine. -/
structure State.Inv (s : State) : Prop where
  config : s.config.wf
  pal_wf : Memory.wf s.pal = true
  prior_wf : Memory.wf s.prior = true
  cur_wf : Memory.wf s.cur = true
  pal_below : Memory.below s.pal 256 = true
  prior_below : Memory.below s.prior s.config.rowBufBytes = true
  cur_below : Memory.below s.cur s.config.rowBufBytes = true
  palLen_le : s.palLen ≤ 256
  pal_full : Memory.full s.pal s.palLen
  filt_col : s.phase = .filt → s.col = 0
  out_held : s.outValid = true → s.st = .run ∧ s.pend = true
  out_clear : s.outValid = false → s.out = Rgba16.zero
  pend_active : s.pend = true → s.st = .run ∨ s.st = .error
  no_error : s.st ≠ .error → s.errKind = 0 ∧ s.errCause = 0 ∧ s.errRow = 0 ∧ s.errSample = 0
  error_code : s.st = .error → raisedCode s.errKind s.errCause = true
  idle_clean : s.st = .idle → s.initRun = s
  running : s.st = .run → ∃ m, s.RunInv m

/-! ### Safe runs -/

/-- The access is a transaction of the block (20_memory.md R80). -/
def BusAccess.isTransaction (a : BusAccess) (c : Config) : Bool :=
  a.bytes == 4 && decide (c.baseAddr ≤ a.addr) && decide (a.addr < c.baseAddr + 256)
    && (a.addr - c.baseAddr) % 4 == 0

/-- Every access of the queue is a transaction of the block: the host meets its duties on the bus (70 R373). -/
def State.queueOk (s : State) : Bool :=
  s.pending.all (fun e => match e with | .access a => a.isTransaction s.config | .reset => true)

/-- Instructions carried out one after another, up to the first stop. -/
def execAll : List Instr → State → Result
  | [], s => .next s
  | i :: is, s =>
    match exec i s with
    | .next t => execAll is t
    | .fault f => .fault f
    | .refused r => .refused r

/-! ### The reference decode -/

/-- Byte `i` of the scanline in `prior`. -/
def State.rowByte (s : State) (i : Nat) : Byte := (Memory.read? s.prior i).getD 0

/-- The sample of depth `d` at bit `q` of a scanline, most significant bit first, 16-bit samples big-endian
(20_memory.md R76, R77). -/
def sampleAt (byte : Nat → Byte) (d : Depth) (q : Nat) : Chan :=
  match d with
  | .d16 => (byte (q / 8) ++ byte (q / 8 + 1) : BitVec 16)
  | .d1 | .d2 | .d4 | .d8 =>
    BitVec.ofNat 16 ((byte (q / 8)).toNat / 2 ^ (8 - q % 8 - d.bits) % 2 ^ d.bits)

/-- The samples of the pixel at column `x` of a scanline: `SPP` samples from bit `x · BITS_PP` on (43 R257). -/
def samplesAt (byte : Nat → Byte) (m : Mode) (x : Nat) : List Chan :=
  (List.range m.spp).map (fun k => sampleAt byte m.depth (x * m.bitsPP + k * m.depth.bits))

/-- The pixel of given samples (44 R284 to R288); none for a palette index at or above `palLen`. -/
def pixelOf (pal : List (Nat × Rgba16)) (palLen : Nat) (m : Mode) (ss : List Chan) : Option Rgba16 :=
  match m.ctype with
  | .gray => some (resolveGray m.depth ss)
  | .rgb => some (resolveRgb m.depth ss)
  | .indexed => if (sample ss 0).toNat < palLen then Memory.read? pal (sample ss 0).toNat else none
  | .grayAlpha => some (resolveGrayA m.depth ss)
  | .rgbAlpha => some (resolveRgba m.depth ss)

/-- The pixel at column `x` of the scanline in `prior`. -/
def State.pixelAt (s : State) (m : Mode) (x : Nat) : Option Rgba16 :=
  pixelOf s.pal s.palLen m (samplesAt s.rowByte m x)

/-- The pixel in the output register is the one at column `xcol` of the draining scanline (43 R263, 44 R291). -/
def State.PixelInv (s : State) : Prop :=
  s.outValid = true → ∀ m, s.mode? = some m → s.pixelAt m s.xcol.toNat = some s.out

/-- The reconstruction rule of a filter type (42_defilter.md R205 to R209). -/
def reconOf : FilterType → Byte → Byte → Byte → Byte → Byte
  | .none => reconNone
  | .sub => reconSub
  | .up => reconUp
  | .avg => reconAvg
  | .paeth => reconPaeth

/-- The filter-type byte of a filter type (30_encoding.md R104). -/
def codeOf : FilterType → Byte
  | .none => 0
  | .sub => 1
  | .up => 2
  | .avg => 3
  | .paeth => 4

/-- The byte `fbpp` places before place `i` of a list, or 0 before its start. -/
def backByte (bytes : List Byte) (fbpp i : Nat) : Byte := if fbpp ≤ i then bytes.getD (i - fbpp) 0 else 0

/-- A scanline reconstructed byte by byte from its filtered bytes and the scanline above, after the bytes
`done` (42_defilter.md R203, R204). -/
def defilterFrom (f : FilterType) (fbpp : Nat) (above : List Byte) (done : List Byte) : List Byte → List Byte
  | [] => done
  | x :: xs =>
    let i := done.length
    let v := reconOf f x (backByte done fbpp i) (above.getD i 0) (backByte above fbpp i)
    defilterFrom f fbpp above (done ++ [v]) xs

/-- A scanline reconstructed. -/
def defilterRow (f : FilterType) (fbpp : Nat) (above xs : List Byte) : List Byte := defilterFrom f fbpp above [] xs

/-- The pixels of one reconstructed scanline, in raster order; none if an index is out of range. -/
def rowPixels (pal : List (Nat × Rgba16)) (palLen : Nat) (m : Mode) (width : Nat) (bytes : List Byte) :
    Option (List Rgba16) :=
  (List.range width).mapM (fun x => pixelOf pal palLen m (samplesAt (fun i => bytes.getD i 0) m x))

/-- The pixels of an image, from its filtered scanlines below the scanline `above` (20_memory.md R74, R75). -/
def imagePixels (pal : List (Nat × Rgba16)) (palLen : Nat) (m : Mode) (width : Nat) (above : List Byte) :
    List (FilterType × List Byte) → Option (List Rgba16)
  | [] => some []
  | (f, xs) :: rest => do
    let bytes := defilterRow f m.fbpp above xs
    let ps ← rowPixels pal palLen m width bytes
    let qs ← imagePixels pal palLen m width bytes rest
    return ps ++ qs

/-- `n` pixels taken from the block: each is the one held before a POP (40 R146). -/
def takePixels : Nat → State → Option (List Rgba16 × State)
  | 0, s => some ([], s)
  | n + 1, s =>
    match s.heldPixel?, exec (.pop 0) s with
    | some p, .next t => (takePixels n t).map (fun r => (p :: r.1, r.2))
    | _, _ => none

/-- The host's transactions of one scanline: its filter-type byte and its data bytes (20_memory.md R74). -/
def scanInstrs (f : FilterType) (xs : List Byte) : List Instr := (codeOf f :: xs).map (fun b => .wrInData b 0)

/-- The scanlines of an image streamed in, each drained before the next (70 R372, R374): the pixels popped, and
the state at the end. -/
def decodeScanlines (width : Nat) : List (FilterType × List Byte) → State → Option (List Rgba16 × State)
  | [], s => some ([], s)
  | (f, xs) :: rest, s =>
    match execAll (scanInstrs f xs) s with
    | .next t =>
      match takePixels width t with
      | some (ps, u) => (decodeScanlines width rest u).map (fun r => (ps ++ r.1, r.2))
      | none => none
    | _ => none

/-! ### Shapes that several claims name -/

/-- The rows of R105's table: FORMAT[23:0], instruction, SPP, BITS_PP, FBPP. -/
def modeRows : List (FmtWord × Mode × Nat × Nat × Nat) :=
  [(0x000001, .g1, 1, 1, 1), (0x000002, .g2, 1, 2, 1), (0x000004, .g4, 1, 4, 1), (0x000008, .g8, 1, 8, 1),
   (0x000010, .g16, 1, 16, 2)] ++
  [(0x000208, .rgb8, 3, 24, 3), (0x000210, .rgb16, 3, 48, 6), (0x000301, .p1, 1, 1, 1),
   (0x000302, .p2, 1, 2, 1), (0x000304, .p4, 1, 4, 1)] ++
  [(0x000308, .p8, 1, 8, 1), (0x000408, .ga8, 2, 16, 2), (0x000410, .ga16, 2, 32, 4),
   (0x000608, .rgba8, 4, 32, 4), (0x000610, .rgba16, 4, 64, 8)]

/-- The state that a refused START leaves: InitRun, then the raise (40 R137, R145, 60 R336). -/
def refusedStart (s : State) (kind cause : BitVec 4) : State :=
  { s with
    st := .error, row := 0, phase := .filt, col := 0, ftype := 0, pend := false, xcol := 0, cursor := 0,
    outValid := false, out := ⟨0, 0, 0, 0⟩, pixels := 0, errKind := kind, errCause := cause, errRow := 0,
    errSample := 0 }

/-- The state that a START with prior row `p` enters RUN in (40 R137, R145). -/
def startedRun (s : State) (p : List Host.Cell) : State :=
  { s with
    st := .run, row := 0, phase := .filt, col := 0, ftype := 0, pend := false, xcol := 0, cursor := 0,
    outValid := false, out := ⟨0, 0, 0, 0⟩, pixels := 0, errKind := 0, errCause := 0, errRow := 0,
    errSample := 0, prior := p }

/-- What the neighbours of column `i` are (R204): the left byte in `cur`, the bytes up and up-left in `prior`,
FBPP bytes back, 0 before the row's start. -/
def neighboursAre (s : State) (fbpp i : Nat) (a b c : Byte) : Prop :=
  (fbpp ≤ i → Memory.read? s.cur (i - fbpp) = some a ∧ Memory.read? s.prior (i - fbpp) = some c) ∧
  (i < fbpp → a = 0 ∧ c = 0) ∧
  Memory.read? s.prior i = some b

/-- The place in a decode where ExtractNext is invoked for the pixel at column xcol (43 R257, R258, R263): the
cursor stands at its first bit, and the scanline is held whole. -/
structure State.ExtractionDue (s : State) (m : Mode) : Prop where
  run : s.st = .run
  row_pos : 1 ≤ s.row.toNat
  xcol_lt : s.xcol.toNat < s.cfgWidth.toNat
  cursor : s.cursor.toNat = (s.row.toNat - 1) * m.rowBytes s.cfgWidth * 8 + s.xcol.toNat * m.bitsPP
  no_wrap : s.row.toNat * m.rowBytes s.cfgWidth * 8 < 2 ^ 64
  capacity : m.rowBytes s.cfgWidth ≤ s.config.rowBufBytes
  prior_full : Memory.full s.prior (m.rowBytes s.cfgWidth)
  palLen_le : s.palLen ≤ 256
  pal_full : Memory.full s.pal s.palLen

end Sys2Proof.Machine
end

