-- ==== Sys2Proof/Certificates/Slice0/Obligations.lean ====
section
/-! DEFINITION. The statements for the provers. Each docstring names the rule of spec/ that the statement
formalises, or the rules it is derived from. Statements equate the outcome with a whole next state wherever
the rule fixes one: every field that the right side does not name is unchanged, which is the frame. -/

open Sys2Proof Sys2Proof.Machine

/-! ### Encoding -/

/-- Every well-formed instruction is what its encoding decodes to (30_encoding.md R100 to R105). -/
def Obligations.DecodeOfEncode : Prop :=
  ∀ i : Instr, i.wellFormed = true → decode (encode i) = .ok i

/-- Every word that decodes is the encoding of its instruction, which is well formed. A read's DATA, which the
block does not look at (R101), is the one part that is not kept. -/
def Obligations.EncodeOfDecode : Prop :=
  ∀ (e : Encoded) (i : Instr), decode e = .ok i →
    i.wellFormed = true ∧
      (encode i = e ∨
        ∃ w, e = .t w ∧ TWord.isWrite w = false ∧ encode i = .t (TWord.mk false (TWord.offset w) 0))

/-- Words written out from the encodings of 30_encoding.md, among them R101's own example. -/
def Obligations.SpecWordsDecode : Prop :=
  decode (.t 0x10000000001) = .ok (.start 0) ∧
  decode (.t 0x100FFFFFFF5) = .ok (.pop 0xFFFFFFF) ∧
  decode (.t 0x1000000000F) = .ok (.cmdReserved 15 0) ∧
  decode (.t 0x10880000000) = .ok (.wrWidth 0x80000000) ∧
  decode (.t 0x110AA010208) = .ok (.wrFormat 8 2 1 0xAA) ∧
  decode (.t 0x120FF563412) = .ok (.wrPalData 0x12 0x34 0x56 0xFF) ∧
  decode (.t 0x12800000004) = .ok (.wrInData 4 0) ∧
  decode (.t 0x10400000000) = .ok (.wrIgnored 0x04 0) ∧
  decode (.t 0x00400000000) = .ok (.rd 0x04) ∧
  decode (.t 0x10100000000) = .error (.misaligned 1) ∧
  decode (.fb 3) = .ok .filterAvg ∧
  decode (.fb 0x80) = .ok (.filterIllegal 0x80) ∧
  decode (.fmt 0x000208) = .ok .rgb8 ∧
  decode (.fmt 0x000304) = .ok .p4 ∧
  decode (.fmt 0x010008) = .ok (.fmtIllegal 8 0 1)

/-- R102, R103: the register-write map, the register-read map and the command map, at every aligned offset. -/
def Obligations.TransactionMap : Prop :=
  ∀ (off : Byte) (data : Word), off.toNat % 4 = 0 →
    decode (.t (TWord.mk false off data)) = .ok (.rd off) ∧
    (off = 0x00 →
      let ig : BitVec 28 := data.extractLsb' 4 28
      (data.toNat % 16 = 0 → decode (.t (TWord.mk true off data)) = .ok (.nop ig)) ∧
      (data.toNat % 16 = 1 → decode (.t (TWord.mk true off data)) = .ok (.start ig)) ∧
      (data.toNat % 16 = 2 → decode (.t (TWord.mk true off data)) = .ok (.abort ig)) ∧
      (data.toNat % 16 = 3 → decode (.t (TWord.mk true off data)) = .ok (.eos ig)) ∧
      (data.toNat % 16 = 4 → decode (.t (TWord.mk true off data)) = .ok (.palClear ig)) ∧
      (data.toNat % 16 = 5 → decode (.t (TWord.mk true off data)) = .ok (.pop ig)) ∧
      (6 ≤ data.toNat % 16 →
        decode (.t (TWord.mk true off data)) = .ok (.cmdReserved (BitVec.ofNat 4 data.toNat) ig))) ∧
    (off = 0x08 → decode (.t (TWord.mk true off data)) = .ok (.wrWidth data)) ∧
    (off = 0x0C → decode (.t (TWord.mk true off data)) = .ok (.wrHeight data)) ∧
    (off = 0x10 → ∃ d c i ig, decode (.t (TWord.mk true off data)) = .ok (.wrFormat d c i ig) ∧
      data.toNat = d.toNat + 2 ^ 8 * c.toNat + 2 ^ 16 * i.toNat + 2 ^ 24 * ig.toNat) ∧
    (off = 0x20 → ∃ r g b ig, decode (.t (TWord.mk true off data)) = .ok (.wrPalData r g b ig) ∧
      data.toNat = r.toNat + 2 ^ 8 * g.toNat + 2 ^ 16 * b.toNat + 2 ^ 24 * ig.toNat) ∧
    (off = 0x28 → ∃ x ig, decode (.t (TWord.mk true off data)) = .ok (.wrInData x ig) ∧
      data.toNat = x.toNat + 2 ^ 8 * ig.toNat) ∧
    (off.toNat ∉ [0x00, 0x08, 0x0C, 0x10, 0x20, 0x28] →
      decode (.t (TWord.mk true off data)) = .ok (.wrIgnored off data))

/-- R104: the filter-type map, on all 256 bytes. -/
def Obligations.FilterTypeMap : Prop :=
  ∀ x : Byte,
    (x.toNat = 0 → decode (.fb x) = .ok .filterNone) ∧
    (x.toNat = 1 → decode (.fb x) = .ok .filterSub) ∧
    (x.toNat = 2 → decode (.fb x) = .ok .filterUp) ∧
    (x.toNat = 3 → decode (.fb x) = .ok .filterAvg) ∧
    (x.toNat = 4 → decode (.fb x) = .ok .filterPaeth) ∧
    (5 ≤ x.toNat → decode (.fb x) = .ok (.filterIllegal x))

/-- The decode-mode map of R105: the 15 rows with their SPP, BITS_PP and FBPP (R22 to R24), every other mode
word illegal, and FORMAT's fields in the illegal one. -/
def Obligations.DecodeModeMap : Prop :=
  (∀ r ∈ modeRows,
    decode (.fmt r.1) = .ok r.2.1.instr ∧ r.2.1.spp = r.2.2.1 ∧ r.2.1.bitsPP = r.2.2.2.1 ∧
      r.2.1.fbpp = r.2.2.2.2) ∧
  (∀ w : FmtWord, w ∉ modeRows.map (·.1) →
    ∃ d c i, decode (.fmt w) = .ok (.fmtIllegal d c i) ∧
      w.toNat = d.toNat + 2 ^ 8 * c.toNat + 2 ^ 16 * i.toNat)

/-! ### The step -/

/-- A step runs the decoded instruction: when the oldest event is the bus access of a T word that decodes to `i`, the
step is `exec i` in the state whose queue has moved past it (10_state.md R20). The queue of events is the model's
own (log 4). -/
def Obligations.StepRunsDecodedInstr : Prop :=
  ∀ (s : State) (w : TWord) (i : Instr) (rest : List HostEvent),
    s.pending = .access (BusAccess.ofWord w s.config) :: rest → decode (.t w) = .ok i →
      step s = exec i { s with pending := rest }

/-- An access is a transaction exactly if it is an aligned 32-bit access inside the window: then a step runs a
well-formed instruction, and otherwise the step refuses (20_memory.md R80, 30_encoding.md R108). The queue of
events is the model's own (log 4). The refusals are log 13's. -/
def Obligations.OnlyTransactionsRun : Prop :=
  ∀ (s : State) (a : BusAccess) (rest : List HostEvent), s.pending = .access a :: rest →
    ((a.bytes = 4 ∧ s.config.baseAddr ≤ a.addr ∧ a.addr < s.config.baseAddr + 256 ∧
        (a.addr - s.config.baseAddr) % 4 = 0) →
      ∃ i, i.wellFormed = true ∧ step s = exec i { s with pending := rest }) ∧
    (¬(a.bytes = 4 ∧ s.config.baseAddr ≤ a.addr ∧ a.addr < s.config.baseAddr + 256 ∧
        (a.addr - s.config.baseAddr) % 4 = 0) →
      ∃ r, step s = .refused r)

/-- The block holds its whole state between transactions, and a reset event sets every variable to its reset value
(60 R348, 70 R370). The queue and the parameters are not the block's state. The queue and reset as one of its
events are the model's own (log 4, log 11). -/
def Obligations.HoldAndReset : Prop :=
  (∀ s : State, s.pending = [] → step s = .next s) ∧
  (∀ (s : State) (rest : List HostEvent), s.pending = .reset :: rest →
    ∃ t, step s = .next t ∧ t.config = s.config ∧ t.pending = rest ∧
      t.st = .idle ∧ t.cfgWidth = 0 ∧ t.cfgHeight = 0 ∧ t.cfgDepth = 0 ∧ t.cfgCtype = 0 ∧ t.cfgInterlace = 0 ∧
      t.palLen = 0 ∧ t.row = 0 ∧ t.phase = .filt ∧ t.col = 0 ∧ t.ftype = 0 ∧ t.pend = false ∧ t.xcol = 0 ∧
      t.cursor = 0 ∧ t.outValid = false ∧ t.out = ⟨0, 0, 0, 0⟩ ∧ t.pixels = 0 ∧
      t.errKind = 0 ∧ t.errCause = 0 ∧ t.errRow = 0 ∧ t.errSample = 0)

/-- R51: after reset every register of the window reads 0, in every implementation. `rdData` is the model's own field
(log 5). -/
def Obligations.ResetRegistersReadZero : Prop :=
  ∀ (c : Config) (off : Byte), ∃ t, exec (.rd off) (State.resetWith c) = .next t ∧ t.rdData = 0

/-- START and the mode words: in IDLE and DONE, START is the FMT instruction that FORMAT decodes to (R105). That a
mode word acts at START and at ExtractNext is the model's reading (log 8). -/
def Obligations.StartRunsFormat : Prop :=
  ∀ (s : State) (ig : BitVec 28), s.st = .idle ∨ s.st = .done →
    exec (.start ig) s = exec (decodeFmtFields s.cfgDepth s.cfgCtype s.cfgInterlace) s

/-- R201: the handling of one stream byte. In RUN with scanlines to come and none draining, the byte in filter
position is its filter instruction, and a data byte is the work of the latched filter's instruction. `inByte` is
the model's own field (log 6). That a filter-type byte acts in both phases is the model's reading (log 7). -/
def Obligations.DefilterInput : Prop :=
  ∀ (s : State) (x : Byte) (ig : BitVec 24), s.st = .run →
    (s.row = s.cfgHeight → exec (.wrInData x ig) s = .next s) ∧
    (s.row ≠ s.cfgHeight → s.pend = true →
      exec (.wrInData x ig) s = .next
        { s with st := .error, errKind := 6, errCause := 4, errRow := s.row, errSample := 0,
                 outValid := false, out := ⟨0, 0, 0, 0⟩ }) ∧
    (s.row ≠ s.cfgHeight → s.pend = false → s.phase = .filt →
      exec (.wrInData x ig) s = exec (decodeFb x) { s with inByte := x }) ∧
    (s.row ≠ s.cfgHeight → s.pend = false → s.phase = .data →
      exec (.wrInData x ig) s = exec (decodeFb s.ftype) { s with inByte := x })

/-- Outside RUN a stream byte is PE(3) in IDLE and ignored in DONE and ERROR (R135, R374). -/
def Obligations.StreamByteOutsideRun : Prop :=
  ∀ (s : State) (x : Byte) (ig : BitVec 24),
    (s.st = .idle → exec (.wrInData x ig) s = .next
      { s with st := .error, errKind := 6, errCause := 3, errRow := s.row, errSample := 0,
               outValid := false, out := ⟨0, 0, 0, 0⟩ }) ∧
    (s.st = .done ∨ s.st = .error → exec (.wrInData x ig) s = .next s)

/-! ### Reads -/

/-- R29 and its register rules: RD returns the register's variable, changes nothing else, and returns 0 for a
write-only register and for an unused offset. `rdData` is the model's own field (log 5). -/
def Obligations.RdReturnsVariables : Prop :=
  ∀ s : State,
    exec (.rd 0x08) s = .next { s with rdData := s.cfgWidth } ∧
    exec (.rd 0x0C) s = .next { s with rdData := s.cfgHeight } ∧
    exec (.rd 0x34) s = .next { s with rdData := s.row } ∧
    exec (.rd 0x38) s = .next { s with rdData := s.col } ∧
    exec (.rd 0x50) s = .next { s with rdData := s.errRow } ∧
    exec (.rd 0x5C) s = .next { s with rdData := s.xcol } ∧
    (∃ v, exec (.rd 0x10) s = .next { s with rdData := v } ∧
      v.toNat = s.cfgDepth.toNat + 2 ^ 8 * s.cfgCtype.toNat + 2 ^ 16 * s.cfgInterlace.toNat) ∧
    (∃ v, exec (.rd 0x3C) s = .next { s with rdData := v } ∧ v.toNat = s.ftype.toNat) ∧
    (∃ v, exec (.rd 0x24) s = .next { s with rdData := v } ∧ (s.palLen ≤ 256 → v.toNat = s.palLen)) ∧
    (∃ lo hi, exec (.rd 0x40) s = .next { s with rdData := lo } ∧ exec (.rd 0x44) s = .next { s with rdData := hi } ∧
      s.cursor.toNat = lo.toNat + 2 ^ 32 * hi.toNat) ∧
    (∃ lo hi, exec (.rd 0x48) s = .next { s with rdData := lo } ∧ exec (.rd 0x4C) s = .next { s with rdData := hi } ∧
      s.pixels.toNat = lo.toNat + 2 ^ 32 * hi.toNat) ∧
    (∃ lo hi, exec (.rd 0x54) s = .next { s with rdData := lo } ∧ exec (.rd 0x58) s = .next { s with rdData := hi } ∧
      s.errSample.toNat = lo.toNat + 2 ^ 32 * hi.toNat) ∧
    exec (.rd 0x00) s = .next { s with rdData := 0 } ∧
    exec (.rd 0x20) s = .next { s with rdData := 0 } ∧
    exec (.rd 0x28) s = .next { s with rdData := 0 } ∧
    (∀ off : Byte, 0x60 ≤ off.toNat → exec (.rd off) s = .next { s with rdData := 0 })

/-- R31, R27: the fields of STATUS. STATE is 0 IDLE, 1 RUN, 2 DONE, 3 ERROR; every other bit is reserved and reads 0.
`rdData` is the model's own field (log 5). -/
def Obligations.StatusFields : Prop :=
  ∀ s : State, ∃ v : Word, exec (.rd 0x04) s = .next { s with rdData := v } ∧
    v.toNat =
      (match s.st with | .idle => 0 | .run => 1 | .done => 2 | .error => 3)
        + 2 ^ 4 * (if s.st = .run ∧ s.pend = false ∧ s.row.toNat < s.cfgHeight.toNat then 1 else 0)
        + 2 ^ 5 * (if s.outValid = true then 1 else 0)
        + 2 ^ 6 * (match s.phase with | .filt => 0 | .data => 1)
        + 2 ^ 7 * (if s.pend = true then 1 else 0)
        + 2 ^ 8 * s.errKind.toNat + 2 ^ 12 * s.errCause.toNat

/-- R35, R36: GEOM and ROW_BYTES show SPP, LEGAL, FBPP, BITS_PP and the 35-bit RB of a legal pair, and read 0 for an
illegal one. `rdData` is the model's own field (log 5). -/
def Obligations.GeometryRegisters : Prop :=
  ∀ s : State, ∃ g lo hi : Word,
    exec (.rd 0x14) s = .next { s with rdData := g } ∧
    exec (.rd 0x18) s = .next { s with rdData := lo } ∧
    exec (.rd 0x1C) s = .next { s with rdData := hi } ∧
    (∀ m, s.mode? = some m →
      g.toNat = m.spp + 2 ^ 3 + 2 ^ 4 * m.fbpp + 2 ^ 8 * m.bitsPP ∧
      lo.toNat + 2 ^ 32 * hi.toNat = (m.bitsPP * s.cfgWidth.toNat + 7) / 8 ∧ hi.toNat < 8) ∧
    (s.mode? = none → g = 0 ∧ lo = 0 ∧ hi = 0) ∧
    (s.mode? = none ↔ (s.cfgCtype.toNat, s.cfgDepth.toNat) ∉ legalPairs)

/-- R40, R41, R289: the output registers show the held pixel, and read 0 when none is held. `rdData` is the model's
own field (log 5). -/
def Obligations.OutputRegisters : Prop :=
  ∀ s : State, ∃ rg ba : Word,
    exec (.rd 0x2C) s = .next { s with rdData := rg } ∧
    exec (.rd 0x30) s = .next { s with rdData := ba } ∧
    (s.outValid = true →
      rg.toNat = s.out.r.toNat + 2 ^ 16 * s.out.g.toNat ∧ ba.toNat = s.out.b.toNat + 2 ^ 16 * s.out.a.toNat) ∧
    (s.outValid = false → rg = 0 ∧ ba = 0)

/-- R82, R143: a read of any offset has no side effect and is idempotent, in every state. `rdData` is the model's own
field (log 5). -/
def Obligations.ReadsHaveNoEffect : Prop :=
  ∀ (s : State) (off : Byte), ∃ v,
    exec (.rd off) s = .next { s with rdData := v } ∧
      ∀ off' : Byte, exec (.rd off') { s with rdData := v } = exec (.rd off') s

/-! ### Register writes -/

/-- R131, R132, R133: the configuration writes, in every block state, with their encodings. -/
def Obligations.ConfigurationWrites : Prop :=
  ∀ (s : State) (v : Word) (d c i ig : Byte),
    decode (.t (TWord.mk true 0x08 v)) = .ok (.wrWidth v) ∧
    decode (.t (TWord.mk true 0x0C v)) = .ok (.wrHeight v) ∧
    decode (.t (TWord.mk true 0x10 (ig ++ (i ++ (c ++ d))))) = .ok (.wrFormat d c i ig) ∧
    (s.st = .idle ∨ s.st = .done →
      exec (.wrWidth v) s = .next { s with cfgWidth := v } ∧
      exec (.wrHeight v) s = .next { s with cfgHeight := v } ∧
      exec (.wrFormat d c i ig) s = .next { s with cfgDepth := d, cfgCtype := c, cfgInterlace := i }) ∧
    (s.st = .run → ∀ j ∈ [Instr.wrWidth v, .wrHeight v, .wrFormat d c i ig],
      exec j s = .next
        { s with st := .error, errKind := 6, errCause := 1, errRow := s.row, errSample := 0,
                 outValid := false, out := ⟨0, 0, 0, 0⟩ }) ∧
    (s.st = .error → ∀ j ∈ [Instr.wrWidth v, .wrHeight v, .wrFormat d c i ig], exec j s = .next s)

/-- R134, R282: WR_PAL_DATA appends the entry {R8·257, G8·257, B8·257, 65535} at pal_len, and drops it when 256
are loaded. Every other entry reads as before. -/
def Obligations.PaletteAppend : Prop :=
  ∀ (s : State) (r g b ig : Byte),
    decode (.t (TWord.mk true 0x20 (ig ++ (b ++ (g ++ r))))) = .ok (.wrPalData r g b ig) ∧
    (s.st = .idle ∨ s.st = .done → s.palLen < 256 →
      ∃ p : List (Nat × Rgba16), exec (.wrPalData r g b ig) s = .next { s with pal := p, palLen := s.palLen + 1 } ∧
        (∃ e : Rgba16, Memory.read? p s.palLen = some e ∧ e.r.toNat = r.toNat * 257 ∧ e.g.toNat = g.toNat * 257 ∧
          e.b.toNat = b.toNat * 257 ∧ e.a.toNat = 65535) ∧
        ∀ k, k ≠ s.palLen → Memory.read? p k = Memory.read? s.pal k) ∧
    (s.st = .idle ∨ s.st = .done → 256 ≤ s.palLen → exec (.wrPalData r g b ig) s = .next s) ∧
    (s.st = .run → exec (.wrPalData r g b ig) s = .next
      { s with st := .error, errKind := 6, errCause := 2, errRow := s.row, errSample := 0,
               outValid := false, out := ⟨0, 0, 0, 0⟩ }) ∧
    (s.st = .error → exec (.wrPalData r g b ig) s = .next s)

/-- R140: PAL_CLEAR, in every block state, with its encoding. The entries keep their contents. -/
def Obligations.PaletteClear : Prop :=
  ∀ (s : State) (ig : BitVec 28),
    decode (.t (TWord.mk true 0x00 (ig ++ (4 : BitVec 4)))) = .ok (.palClear ig) ∧
    (s.st = .idle ∨ s.st = .done → exec (.palClear ig) s = .next { s with palLen := 0 }) ∧
    (s.st = .run → exec (.palClear ig) s = .next
      { s with st := .error, errKind := 6, errCause := 2, errRow := s.row, errSample := 0,
               outValid := false, out := ⟨0, 0, 0, 0⟩ }) ∧
    (s.st = .error → exec (.palClear ig) s = .next s)

/-- R136, R144: NOP and a write to a read-only or unused offset have no effect in any state. -/
def Obligations.NoEffectTransactions : Prop :=
  (∀ (s : State) (ig : BitVec 28),
    decode (.t (TWord.mk true 0x00 (ig ++ (0 : BitVec 4)))) = .ok (.nop ig) ∧ exec (.nop ig) s = .next s) ∧
  (∀ (s : State) (off : Byte) (data : Word),
    off.toNat ∈ [0x04, 0x14, 0x18, 0x1C, 0x24] ∨ (0x2C ≤ off.toNat ∧ off.toNat % 4 = 0) →
      decode (.t (TWord.mk true off data)) = .ok (.wrIgnored off data) ∧ exec (.wrIgnored off data) s = .next s)

/-! ### Commands -/

/-- R142: a reserved command raises ProtocolError cause 6 outside ERROR and is ignored in ERROR. -/
def Obligations.ReservedCommand : Prop :=
  ∀ (s : State) (cmd : BitVec 4) (ig : BitVec 28), 6 ≤ cmd.toNat →
    decode (.t (TWord.mk true 0x00 (ig ++ cmd))) = .ok (.cmdReserved cmd ig) ∧
    (s.st ≠ .error → exec (.cmdReserved cmd ig) s = .next
      { s with st := .error, errKind := 6, errCause := 6, errRow := s.row, errSample := 0,
               outValid := false, out := ⟨0, 0, 0, 0⟩ }) ∧
    (s.st = .error → exec (.cmdReserved cmd ig) s = .next s)

/-- START's refusals, in the order of R137 and R340: the first check that fails is the one reported. In RUN it
is PE(7), and in ERROR it is ignored. -/
def Obligations.StartRefusals : Prop :=
  ∀ (s : State) (ig : BitVec 28),
    (s.st = .idle ∨ s.st = .done →
      (s.cfgCtype.toNat ∉ [0, 2, 3, 4, 6] → exec (.start ig) s = .next (refusedStart s 2 1)) ∧
      (s.cfgCtype.toNat ∈ [0, 2, 3, 4, 6] → (s.cfgCtype.toNat, s.cfgDepth.toNat) ∉ legalPairs →
        exec (.start ig) s = .next (refusedStart s 2 2)) ∧
      ((s.cfgCtype.toNat, s.cfgDepth.toNat) ∈ legalPairs → s.cfgInterlace ≠ 0 →
        exec (.start ig) s = .next (refusedStart s 2 3)) ∧
      (∀ m, s.mode? = some m → s.cfgInterlace = 0 →
        (¬(1 ≤ s.cfgWidth.toNat ∧ s.cfgWidth.toNat ≤ 2 ^ 31 - 1 ∧
            1 ≤ s.cfgHeight.toNat ∧ s.cfgHeight.toNat ≤ 2 ^ 31 - 1) →
          exec (.start ig) s = .next (refusedStart s 2 4)) ∧
        ((1 ≤ s.cfgWidth.toNat ∧ s.cfgWidth.toNat ≤ 2 ^ 31 - 1 ∧
            1 ≤ s.cfgHeight.toNat ∧ s.cfgHeight.toNat ≤ 2 ^ 31 - 1) →
          s.config.rowBufBytes < (m.bitsPP * s.cfgWidth.toNat + 7) / 8 →
          exec (.start ig) s = .next (refusedStart s 5 0)))) ∧
    (s.st = .run → exec (.start ig) s = .next
      { s with st := .error, errKind := 6, errCause := 7, errRow := s.row, errSample := 0,
               outValid := false, out := ⟨0, 0, 0, 0⟩ }) ∧
    (s.st = .error → exec (.start ig) s = .next s)

/-- START with a legal configuration that fits the row buffers, and the mode word it decodes: RUN over an all-zero
prior row (R137, R105). Every byte of `prior` from RB on reads as before. That a mode word acts at START and at
ExtractNext is the model's reading (log 8). -/
def Obligations.StartEntersRun : Prop :=
  ∀ (s : State) (ig : BitVec 28) (m : Mode), s.st = .idle ∨ s.st = .done →
    1 ≤ s.cfgWidth.toNat → s.cfgWidth.toNat ≤ 2 ^ 31 - 1 → 1 ≤ s.cfgHeight.toNat → s.cfgHeight.toNat ≤ 2 ^ 31 - 1 →
    (m.bitsPP * s.cfgWidth.toNat + 7) / 8 ≤ s.config.rowBufBytes →
    ∃ p : List Host.Cell,
      exec m.instr s = .next (startedRun s p) ∧
      (s.mode? = some m → s.cfgInterlace = 0 → exec (.start ig) s = .next (startedRun s p)) ∧
      ∀ k, Memory.read? p k =
        if k < (m.bitsPP * s.cfgWidth.toNat + 7) / 8 then some 0 else Memory.read? s.prior k

/-- FMT_ILLEGAL (R105, R331): in IDLE and DONE its FormatError, by the first check that fails; in ERROR nothing; in
RUN the machine stops, for no decode runs in an illegal format (44 R283). That a mode word acts at START and at
ExtractNext is the model's reading (log 8). -/
def Obligations.IllegalFormat : Prop :=
  ∀ (s : State) (d c i : Byte), (Instr.fmtIllegal d c i).wellFormed = true →
    (s.st = .idle ∨ s.st = .done →
      (c.toNat ∉ [0, 2, 3, 4, 6] → exec (.fmtIllegal d c i) s = .next (refusedStart s 2 1)) ∧
      (c.toNat ∈ [0, 2, 3, 4, 6] → (c.toNat, d.toNat) ∉ legalPairs →
        exec (.fmtIllegal d c i) s = .next (refusedStart s 2 2)) ∧
      ((c.toNat, d.toNat) ∈ legalPairs → i ≠ 0 ∧ exec (.fmtIllegal d c i) s = .next (refusedStart s 2 3))) ∧
    (s.st = .error → exec (.fmtIllegal d c i) s = .next s) ∧
    (s.st = .run → exec (.fmtIllegal d c i) s = .fault (.noMode c d))

/-- R138, R145: ABORT, from every state. The configuration, the palette and the row buffers are kept. -/
def Obligations.AbortToIdle : Prop :=
  ∀ (s : State) (ig : BitVec 28),
    decode (.t (TWord.mk true 0x00 (ig ++ (2 : BitVec 4)))) = .ok (.abort ig) ∧
    exec (.abort ig) s = .next
      { s with
        st := .idle, row := 0, phase := .filt, col := 0, ftype := 0, pend := false, xcol := 0, cursor := 0,
        outValid := false, out := ⟨0, 0, 0, 0⟩, pixels := 0, errKind := 0, errCause := 0, errRow := 0,
        errSample := 0 }

/-- R139: EOS, in every block state, with its encoding. -/
def Obligations.EndOfStream : Prop :=
  ∀ (s : State) (ig : BitVec 28),
    decode (.t (TWord.mk true 0x00 (ig ++ (3 : BitVec 4)))) = .ok (.eos ig) ∧
    (s.st = .run → s.row.toNat < s.cfgHeight.toNat → exec (.eos ig) s = .next
      { s with st := .error, errKind := 2, errCause := 6, errRow := s.row, errSample := 0,
               outValid := false, out := ⟨0, 0, 0, 0⟩ }) ∧
    (s.st = .run → s.cfgHeight.toNat ≤ s.row.toNat → exec (.eos ig) s = .next s) ∧
    (s.st = .idle → exec (.eos ig) s = .next
      { s with st := .error, errKind := 6, errCause := 8, errRow := s.row, errSample := 0,
               outValid := false, out := ⟨0, 0, 0, 0⟩ }) ∧
    (s.st = .done ∨ s.st = .error → exec (.eos ig) s = .next s)

/-- R141: POP. Without a held pixel it is PE(5). With one, the last pixel of a scanline ends the draining, and the
last of the image the decode; any other is followed by the extraction of the next pixel. That a mode word acts at
START and at ExtractNext is the model's reading (log 8). -/
def Obligations.PopRule : Prop :=
  ∀ (s : State) (ig : BitVec 28),
    decode (.t (TWord.mk true 0x00 (ig ++ (5 : BitVec 4)))) = .ok (.pop ig) ∧
    (s.st = .idle ∨ s.st = .done ∨ (s.st = .run ∧ s.outValid = false) → exec (.pop ig) s = .next
      { s with st := .error, errKind := 6, errCause := 5, errRow := s.row, errSample := 0,
               outValid := false, out := ⟨0, 0, 0, 0⟩ }) ∧
    (s.st = .error → exec (.pop ig) s = .next s) ∧
    (s.st = .run → s.outValid = true → s.cfgWidth.toNat ≤ s.xcol.toNat + 1 → exec (.pop ig) s = .next
      { s with
        pixels := s.pixels + 1, outValid := false, out := ⟨0, 0, 0, 0⟩, pend := false, xcol := 0,
        st := if s.row = s.cfgHeight then .done else .run }) ∧
    (∀ m, s.mode? = some m → s.st = .run → s.outValid = true → s.xcol.toNat + 1 < s.cfgWidth.toNat →
      exec (.pop ig) s = exec m.instr
        { s with pixels := s.pixels + 1, outValid := false, out := ⟨0, 0, 0, 0⟩, xcol := s.xcol + 1 })

/-! ### The defilterer -/

/-- R202: the filter-type byte. A legal one is latched and data follows; an illegal one is latched and raises
FormatError cause 5 with the scanline's index. The same holds of the FB instructions. `inByte` is the model's own
field (log 6). That a filter-type byte acts in both phases is the model's reading (log 7). -/
def Obligations.FilterByteRule : Prop :=
  ∀ (s : State) (x : Byte) (ig : BitVec 24),
    s.st = .run → s.row ≠ s.cfgHeight → s.pend = false → s.phase = .filt →
    (x.toNat ≤ 4 →
      exec (.wrInData x ig) s = .next { s with inByte := x, ftype := x, phase := .data, col := 0 } ∧
      exec (decodeFb x) s = .next { s with ftype := x, phase := .data, col := 0 }) ∧
    (5 ≤ x.toNat →
      exec (.wrInData x ig) s = .next
        { s with inByte := x, ftype := x, st := .error, errKind := 2, errCause := 5, errRow := s.row,
                 errSample := 0, outValid := false, out := ⟨0, 0, 0, 0⟩ } ∧
      exec (.filterIllegal x) s = .next
        { s with ftype := x, st := .error, errKind := 2, errCause := 5, errRow := s.row,
                 errSample := 0, outValid := false, out := ⟨0, 0, 0, 0⟩ })

/-- R205 to R209: the reconstruction rules, on integers, with the encodings of the filter types. Only the final
sum is taken modulo 256 (R212). -/
def Obligations.ReconstructionFormulas : Prop :=
  ∀ x a b c : Byte,
    decode (.fb 0) = .ok .filterNone ∧ reconNone x a b c = x ∧
    decode (.fb 1) = .ok .filterSub ∧ (reconSub x a b c).toNat = (x.toNat + a.toNat) % 256 ∧
    decode (.fb 2) = .ok .filterUp ∧ (reconUp x a b c).toNat = (x.toNat + b.toNat) % 256 ∧
    decode (.fb 3) = .ok .filterAvg ∧ (reconAvg x a b c).toNat = (x.toNat + (a.toNat + b.toNat) / 2) % 256 ∧
    decode (.fb 4) = .ok .filterPaeth ∧ (reconPaeth x a b c).toNat = (x.toNat + (paeth a b c).toNat) % 256

/-- R213: the Paeth predictor from the closed forms of its distances; it is always one of its three arguments
(R210). -/
def Obligations.PaethClosedForm : Prop :=
  ∀ a b c : Byte,
    let pa := ((b.toNat : Int) - c.toNat).natAbs
    let pb := ((a.toNat : Int) - c.toNat).natAbs
    let pc := ((a.toNat : Int) + b.toNat - 2 * c.toNat).natAbs
    paeth a b c = (if pa ≤ pb ∧ pa ≤ pc then a else if pb ≤ pc then b else c) ∧
      (paeth a b c = a ∨ paeth a b c = b ∨ paeth a b c = c)

/-- The corner cases of R207 to R209: in scanline 0 (b = c = 0) UP acts like NONE and PAETH like SUB, and AVG
adds half the left byte; in the first FBPP bytes (a = c = 0) PAETH acts like UP. -/
def Obligations.FilterBoundaryCases : Prop :=
  ∀ x a b : Byte,
    reconUp x a 0 0 = reconNone x a 0 0 ∧
    reconPaeth x a 0 0 = reconSub x a 0 0 ∧
    reconPaeth x 0 b 0 = reconUp x 0 b 0 ∧
    (reconAvg x a 0 0).toNat = (x.toNat + a.toNat / 2) % 256 ∧
    (reconAvg x 0 b 0).toNat = (x.toNat + b.toNat / 2) % 256

/-- R203, R204: a data byte that is not the last of its scanline. Under each filter type the reconstructed byte is
stored at `col` in `cur`, and `col` is incremented; every other byte of `cur` reads as before. The filter's own
instruction does the same to the byte it finds in `inByte`. `inByte` is the model's own field (log 6). That a
filter-type byte acts in both phases is the model's reading (log 7). -/
def Obligations.DataByteRule : Prop :=
  ∀ (s : State) (f : FilterType) (m : Mode) (x : Byte) (ig : BitVec 24) (a b c : Byte),
    s.st = .run → s.row ≠ s.cfgHeight → s.pend = false → s.phase = .data → s.mode? = some m →
    s.col.toNat + 1 < m.rowBytes s.cfgWidth → m.rowBytes s.cfgWidth ≤ s.config.rowBufBytes →
    neighboursAre s m.fbpp s.col.toNat a b c →
    ∃ cur : List Host.Cell,
      (∀ k, Memory.read? cur k = if k = s.col.toNat then some (reconOf f x a b c) else Memory.read? s.cur k) ∧
      (s.ftype = codeOf f →
        exec (.wrInData x ig) s = .next { s with inByte := x, cur := cur, col := s.col + 1 }) ∧
      (s.inByte = x → exec f.instr s = .next { s with cur := cur, col := s.col + 1 })

/-- R211: the last data byte of a scanline. The row is handed over whole, the next scanline's filter byte is awaited,
and the first pixel is extracted: the transaction ends as the mode's instruction does there. `inByte` is the
model's own field (log 6), and the mode word's place at ExtractNext the model's reading (log 8). -/
def Obligations.CompleteRowRule : Prop :=
  ∀ (s : State) (f : FilterType) (m : Mode) (x : Byte) (ig : BitVec 24) (a b c : Byte),
    s.st = .run → s.row ≠ s.cfgHeight → s.pend = false → s.phase = .data → s.mode? = some m →
    s.ftype = codeOf f →
    s.col.toNat + 1 = m.rowBytes s.cfgWidth → m.rowBytes s.cfgWidth ≤ s.config.rowBufBytes →
    s.config.rowBufBytes ≤ 2 ^ 30 → Memory.full s.cur s.col.toNat → neighboursAre s m.fbpp s.col.toNat a b c →
    ∃ prior cur : List Host.Cell,
      (∀ k, Memory.read? cur k = if k = s.col.toNat then some (reconOf f x a b c) else Memory.read? s.cur k) ∧
      (∀ k, Memory.read? prior k =
        if k < m.rowBytes s.cfgWidth then Memory.read? cur k else Memory.read? s.prior k) ∧
      exec (.wrInData x ig) s = exec m.instr
        { s with
          inByte := x, cur := cur, prior := prior, row := s.row + 1, phase := .filt, col := 0, pend := true,
          xcol := 0 }

/-! ### The bit cursor, the samples and the pixels -/

/-- R182, R184: ADVANCE adds to the cursor; ALIGN takes it to the next multiple of 8 at or above it. Neither
changes anything else. -/
def Obligations.CursorAdvanceAndAlign : Prop :=
  ∀ s : State,
    (∀ n, s.cursor.toNat + n < 2 ^ 64 →
      (s.advance n).cursor.toNat = s.cursor.toNat + n ∧ s.advance n = { s with cursor := (s.advance n).cursor }) ∧
    (s.cursor.toNat + 7 < 2 ^ 64 →
      s.align.cursor.toNat = (s.cursor.toNat + 7) / 8 * 8 ∧ s.align = { s with cursor := s.align.cursor } ∧
      (s.cursor.toNat % 8 = 0 → s.align = s))

/-- R264: the bit budget of a scanline, with RB of R25. -/
def Obligations.BitBudget : Prop :=
  ∀ (m : Mode) (w : Word),
    w.toNat * m.bitsPP ≤ m.rowBytes w * 8 ∧ m.rowBytes w * 8 < w.toNat * m.bitsPP + 8

/-- R76, R252 to R254: bit k of a packed sample of depth d at offset o is bit 8 - o - d + k of its byte, for
k < d, and the other bits are 0: samples are packed most significant bit first. -/
def Obligations.PackedSampleBits : Prop :=
  ∀ (d : Depth) (o : Nat) (b : Byte) (k : Nat), d.bits ≤ 4 → o + d.bits ≤ 8 →
    (packedSample d.bits o b).getLsbD k = (decide (k < d.bits) && b.getLsbD (8 - o - d.bits + k))

/-- R281: rescaling is exact. M_d is 65535 / (2^d - 1), a whole number. -/
def Obligations.ScalingExact : Prop :=
  ∀ d : Depth,
    (2 ^ d.bits - 1) * (65535 / (2 ^ d.bits - 1)) = 65535 ∧
    (∀ v : Chan, v.toNat < 2 ^ d.bits → (scale16 v d).toNat = v.toNat * (65535 / (2 ^ d.bits - 1))) ∧
    scale16 0 d = 0 ∧
    (∀ v w : Chan, v.toNat < w.toNat → w.toNat < 2 ^ d.bits → (scale16 v d).toNat < (scale16 w d).toNat) ∧
    (∀ v : Chan, v.toNat = 2 ^ d.bits - 1 → scale16 v d = 65535) ∧
    scale16 8 .d4 = 34952 ∧ scale16 0x1234 .d16 = 0x1234

/-- R283 to R288: Resolve, by colour type. The indexed lookup is checked first and is not rescaled. -/
def Obligations.ResolveByColourType : Prop :=
  ∀ (s : State) (d : Depth) (a b c e : Chan),
    s.resolve .gray d [a] = .ok (some ⟨scale16 a d, scale16 a d, scale16 a d, 65535⟩) ∧
    s.resolve .rgb d [a, b, c] = .ok (some ⟨scale16 a d, scale16 b d, scale16 c d, 65535⟩) ∧
    (s.palLen ≤ a.toNat → s.resolve .indexed d [a] = .ok none) ∧
    (∀ p, a.toNat < s.palLen → a.toNat < 256 → Memory.read? s.pal a.toNat = some p →
      s.resolve .indexed d [a] = .ok (some p)) ∧
    s.resolve .grayAlpha d [a, b] = .ok (some ⟨scale16 a d, scale16 a d, scale16 a d, scale16 b d⟩) ∧
    s.resolve .rgbAlpha d [a, b, c, e] = .ok (some ⟨scale16 a d, scale16 b d, scale16 c d, scale16 e d⟩)

/-- ExtractNext in each of the 15 modes (43 R251, R257, R263, 44 R283): the pixel of column xcol, taken from the bits
of its own scanline, is placed in the output register, and the cursor moves to the next pixel, or past the
padding after the last one (R259). That a mode word acts at START and at ExtractNext is the model's reading (log
8). -/
def Obligations.ExtractPixel : Prop :=
  ∀ (s : State) (m : Mode) (p : Rgba16), s.ExtractionDue m → s.pixelAt m s.xcol.toNat = some p →
    ∃ k : Wide, exec m.instr s = .next { s with out := p, outValid := true, cursor := k } ∧
      k.toNat = s.cursorAfter m

/-- PaletteIndexError (44 R286, 60 R332, R337): an index at or above pal_len raises it, with the pixel's scanline and
its raster position. The cursor has passed the sample, and no pixel is held. That a mode word acts at START and
at ExtractNext is the model's reading (log 8). -/
def Obligations.ExtractIndexError : Prop :=
  ∀ (s : State) (m : Mode), s.ExtractionDue m → s.pixelAt m s.xcol.toNat = none →
    ∃ (k n : Wide) (r : Word),
      exec m.instr s = .next
        { s with st := .error, errKind := 4, errCause := 0, errRow := r, errSample := n,
                 outValid := false, out := ⟨0, 0, 0, 0⟩, cursor := k } ∧
      k.toNat = s.cursor.toNat + m.bitsPP ∧ r.toNat = s.row.toNat - 1 ∧
      (s.row.toNat * s.cfgWidth.toNat < 2 ^ 64 →
        n.toNat = (s.row.toNat - 1) * s.cfgWidth.toNat + s.xcol.toNat)

/-! ### Errors and whole-machine rules -/

/-- R338: in ERROR every transaction except ABORT and RD is ignored, and RD changes only the value it returns
(`rdData` is the model's own field, log 5). R338 speaks of transactions. That the FB and FMT words, which are no
transactions by themselves, are ignored in ERROR too is the model's reading (log 7, log 8). -/
def Obligations.ErrorIsSticky : Prop :=
  ∀ (s : State) (i : Instr), s.st = .error →
    (∃ ig, i = .abort ig) ∨ (∃ off v, i = .rd off ∧ exec i s = .next { s with rdData := v }) ∨ exec i s = .next s

/-- R339: the only exits from ERROR are ABORT and reset. Both go to IDLE and clear the error; ABORT keeps the
configuration and the palette. The queue of events is the model's own (log 4). -/
def Obligations.ErrorExits : Prop :=
  ∀ s t : State, s.st = .error → step s = .next t → t.st ≠ .error →
    t.st = .idle ∧ t.errKind = 0 ∧ t.errCause = 0 ∧ t.errRow = 0 ∧ t.errSample = 0 ∧
      ((∃ rest, s.pending = .reset :: rest) ∨
        (∃ (a : BusAccess) (ig : BitVec 28) (rest : List HostEvent), s.pending = .access a :: rest ∧
          a.instr s.config = .ok (.abort ig) ∧
          t.cfgWidth = s.cfgWidth ∧ t.cfgHeight = s.cfgHeight ∧ t.cfgDepth = s.cfgDepth ∧
          t.cfgCtype = s.cfgCtype ∧ t.cfgInterlace = s.cfgInterlace ∧ t.pal = s.pal ∧ t.palLen = s.palLen))

/-- R378: in RUN no instruction changes the configuration or the palette. That the FB and FMT words, which are no
transactions by themselves, have an effect in RUN of their own is the model's reading (log 7, log 8). -/
def Obligations.RunKeepsConfiguration : Prop :=
  ∀ (i : Instr) (s t : State), s.st = .run → exec i s = .next t →
    t.cfgWidth = s.cfgWidth ∧ t.cfgHeight = s.cfgHeight ∧ t.cfgDepth = s.cfgDepth ∧ t.cfgCtype = s.cfgCtype ∧
      t.cfgInterlace = s.cfgInterlace ∧ t.pal = s.pal ∧ t.palLen = s.palLen

/-- R377: only PAL_CLEAR and WR_PAL_DATA change the palette. No instruction changes the implementation's
parameters or the events still to happen. The queue of events and the place of the parameters are the model's own
(log 1, log 4), and that the FB and FMT words have an effect of their own is the model's reading (log 7, log 8). -/
def Obligations.PalettePersists : Prop :=
  ∀ (i : Instr) (s t : State), exec i s = .next t →
    t.config = s.config ∧ t.pending = s.pending ∧
      ((∃ ig, i = .palClear ig) ∨ (∃ r g b ig, i = .wrPalData r g b ig) ∨ (t.pal = s.pal ∧ t.palLen = s.palLen))

/-- R182, R52: within a decode neither the bit cursor nor the position in the stream moves backward. A step that
leaves the cursor below where it was, or the position (row, phase, col) before where it was, is a START, an ABORT
or a reset, and sets them to zero. The queue of events is the model's own (log 4). -/
def Obligations.PositionsNeverMoveBack : Prop :=
  ∀ s t : State, s.Inv → step s = .next t →
    (t.cursor = 0 ∧ t.row = 0 ∧ t.phase = .filt ∧ t.col = 0 ∧
      ((∃ rest, s.pending = .reset :: rest) ∨
        ∃ (a : BusAccess) (ig : BitVec 28) (rest : List HostEvent), s.pending = .access a :: rest ∧
          (a.instr s.config = .ok (.start ig) ∨ a.instr s.config = .ok (.abort ig)))) ∨
    (s.cursor.toNat ≤ t.cursor.toNat ∧
      (s.row.toNat < t.row.toNat ∨
        (s.row = t.row ∧ (s.phase = t.phase ∨ (s.phase = .filt ∧ t.phase = .data)) ∧
          s.col.toNat ≤ t.col.toNat)))

/-- R341, R349: in ERROR no pixel is presented, whatever the output held before. `rdData` is the model's own field
(log 5). -/
def Obligations.NoPixelInError : Prop :=
  ∀ s : State, s.Inv → s.st = .error →
    s.outValid = false ∧ s.heldPixel? = none ∧
      exec (.rd 0x2C) s = .next { s with rdData := 0 } ∧ exec (.rd 0x30) s = .next { s with rdData := 0 }

/-! ### Invariants -/

/-- The invariant holds after reset, for every implementation that R6 allows. The reset values of the model's own
fields are log 4's to log 6's. -/
def Obligations.ResetSatisfiesInv : Prop :=
  ∀ c : Config, c.wf → (State.resetWith c).Inv ∧ (State.resetWith c).PixelInv

/-- Every step keeps the invariant (R55, R56): the memories stay canonical and inside their bounds, the latched
filter type and the mode stay legal in RUN, and the row, column, cursor and pixel counts agree. -/
def Obligations.StepKeepsInv : Prop :=
  ∀ s t : State, s.Inv → step s = .next t → t.Inv

/-- No step from a state with the invariant faults: no rule reads an unspecified cell, an index out of range, a
sample across two bytes, or an illegal mode or filter type in RUN (R55, R72, R203, R260, R283). The faults are
the model's stops for cases the rules exclude (log 3, log 10). -/
def Obligations.StepNeverFaults : Prop :=
  ∀ (s : State) (f : Fault), s.Inv → step s ≠ .fault f

/-- A host that issues only transactions of the block, and resets, never stops the machine: every run of any length
goes on, with the invariant at its end. The queue of events is the model's own (log 4). -/
def Obligations.RunsNeverStop : Prop :=
  ∀ (k : Nat) (s : State), s.Inv → s.queueOk = true →
    ∃ t, Host.Core.run Sys2Proof.core k s = .next t ∧ t.Inv ∧ t.queueOk = true

/-- Every step keeps the output register right: a held pixel is the pixel of column xcol of the draining
scanline, resolved from the bits of that scanline, the configuration and the palette alone (R257, R291). -/
def Obligations.StepKeepsHeldPixel : Prop :=
  ∀ s t : State, s.Inv → s.PixelInv → step s = .next t → t.PixelInv

/-- R56, its bullets on RUN, from the invariant: they hold at every transaction boundary of a decode. -/
def Obligations.RunInvariants : Prop :=
  ∀ s : State, s.Inv → s.st = .run → ∃ m, s.mode? = some m ∧
    s.row.toNat ≤ s.cfgHeight.toNat ∧
    s.col.toNat < m.rowBytes s.cfgWidth ∧
    (s.phase = .filt → s.col = 0) ∧
    (s.pend = true → 1 ≤ s.row.toNat ∧ s.xcol.toNat < s.cfgWidth.toNat) ∧
    (s.pend = false → s.cursor.toNat = s.row.toNat * m.rowBytes s.cfgWidth * 8) ∧
    (s.pend = true →
      (s.row.toNat - 1) * m.rowBytes s.cfgWidth * 8 ≤ s.cursor.toNat ∧
      s.cursor.toNat ≤ s.row.toNat * m.rowBytes s.cfgWidth * 8) ∧
    (s.outValid = true → s.pend = true) ∧
    (s.pend = true → s.outValid = true →
      s.pixels.toNat = (s.row.toNat - 1) * s.cfgWidth.toNat + s.xcol.toNat) ∧
    (s.pend = false → s.pixels.toNat = s.row.toNat * s.cfgWidth.toNat)

/-- R56's last bullet, R146: a decode leaves RUN for DONE only with the whole image delivered. -/
def Obligations.DoneMeansWholeImage : Prop :=
  ∀ s t : State, s.Inv → s.st = .run → step s = .next t → t.st = .done →
    ∃ m, s.mode? = some m ∧ t.row = t.cfgHeight ∧ t.pend = false ∧
      t.pixels.toNat = t.cfgWidth.toNat * t.cfgHeight.toNat ∧
      t.cursor.toNat = t.cfgHeight.toNat * m.rowBytes t.cfgWidth * 8

/-! ### The decode -/

/-- A scanline streamed in is reconstructed as the reference does it: after its filter-type byte and its RB data
bytes, `prior` is `defilterRow` of them over the row that `prior` was, and the row drains (R203 to R211). -/
def Obligations.ScanlineReconstructed : Prop :=
  ∀ (s : State) (m : Mode) (f : FilterType) (xs : List Byte),
    s.Inv → s.st = .run → s.mode? = some m → s.pend = false → s.phase = .filt →
    xs.length = m.rowBytes s.cfgWidth →
    ∃ t, execAll (scanInstrs f xs) s = .next t ∧ t.row = s.row + 1 ∧ t.pend = true ∧ t.xcol = 0 ∧
      t.ftype = codeOf f ∧ t.pixels = s.pixels ∧ t.pal = s.pal ∧ t.palLen = s.palLen ∧
      ∀ i < m.rowBytes s.cfgWidth,
        Memory.read? t.prior i =
          some ((defilterRow f m.fbpp ((List.range (m.rowBytes s.cfgWidth)).map s.rowByte) xs).getD i 0)

/-- A draining scanline gives its pixels in raster order, each once, and ends with the next scanline awaited or
the decode done (R75, R141, R257). -/
def Obligations.ScanlineDrained : Prop :=
  ∀ (s : State) (m : Mode) (ps : List Rgba16),
    s.Inv → s.PixelInv → s.st = .run → s.mode? = some m → s.pend = true → s.xcol = 0 →
    rowPixels s.pal s.palLen m s.cfgWidth.toNat ((List.range (m.rowBytes s.cfgWidth)).map s.rowByte) = some ps →
    ∃ t, takePixels s.cfgWidth.toNat s = some (ps, t) ∧ t.pend = false ∧ t.row = s.row ∧ t.prior = s.prior ∧
      t.st = (if s.row = s.cfgHeight then .done else .run) ∧
      t.pixels.toNat = s.pixels.toNat + s.cfgWidth.toNat ∧
      t.cursor.toNat = s.row.toNat * m.rowBytes s.cfgWidth * 8

/-- The decode of an image (R2, R71, R74, R75, R146): from a started decode, the scanlines streamed in and
drained one after another give the reference's pixels, in raster order, and end in DONE. -/
def Obligations.ImageDecoded : Prop :=
  ∀ (s : State) (m : Mode) (lines : List (FilterType × List Byte)) (ps : List Rgba16),
    s.Inv → s.st = .run → s.mode? = some m → s.row = 0 → s.pend = false → s.phase = .filt →
    lines.length = s.cfgHeight.toNat → (∀ l ∈ lines, l.2.length = m.rowBytes s.cfgWidth) →
    imagePixels s.pal s.palLen m s.cfgWidth.toNat ((List.range (m.rowBytes s.cfgWidth)).map s.rowByte) lines
      = some ps →
    ∃ t, decodeScanlines s.cfgWidth.toNat lines s = some (ps, t) ∧ t.st = .done ∧
      t.pixels.toNat = s.cfgWidth.toNat * s.cfgHeight.toNat

/-! ### Host programs -/

/-- R111: the pseudo-instructions expand to the words the rule gives and to no others: `in` gives one WR_IN_DATA
for each byte, `take` three words for each pixel. -/
def Obligations.PseudoInstructionExpansion : Prop :=
  ∀ (c : Config) (f d : Byte) (ds : List Byte) (r g b depth ctype il : Byte) (w h : Word) (n : Nat),
    HostStmt.expand .nop = [0x10000000000] ∧ HostStmt.expand .start = [0x10000000001] ∧
    HostStmt.expand .abort = [0x10000000002] ∧ HostStmt.expand .eos = [0x10000000003] ∧
    HostStmt.expand .palclr = [0x10000000004] ∧ HostStmt.expand .pop = [0x10000000005] ∧
    HostStmt.expand (.scan f ds) = HostStmt.expand (.inBytes (f :: ds)) ∧
    HostStmt.expand (.inBytes []) = [] ∧
    (∃ e, HostStmt.expand (.inBytes (d :: ds)) = e :: HostStmt.expand (.inBytes ds) ∧
      decode (.t e) = .ok (.wrInData d 0)) ∧
    (∃ e, HostStmt.expand (.pal r g b) = [e] ∧ decode (.t e) = .ok (.wrPalData r g b 0)) ∧
    (∃ e, HostStmt.expand (.fmt depth ctype il) = [e] ∧ decode (.t e) = .ok (.wrFormat depth ctype il 0)) ∧
    (∃ e₁ e₂, HostStmt.expand (.cfg w h depth ctype) = e₁ :: e₂ :: HostStmt.expand (.fmt depth ctype 0) ∧
      decode (.t e₁) = .ok (.wrWidth w) ∧ decode (.t e₂) = .ok (.wrHeight h)) ∧
    HostStmt.expand (.take 0) = [] ∧
    HostStmt.expand (.take (n + 1)) = [0x02C00000000, 0x03000000000, 0x10000000005] ++ HostStmt.expand (.take n) ∧
    (∀ e ∈ HostStmt.expand (.scan f ds), (BusAccess.ofWord e c).isTransaction c = true)

/-- R79: the eight bytes of a serialised pixel give its channels back, big-endian, in the order R, G, B, A. -/
def Obligations.PixelSerialisation : Prop :=
  ∀ p : Rgba16, ∃ r1 r0 g1 g0 b1 b0 a1 a0 : Byte,
    serialisePixel p = [r1, r0, g1, g0, b1, b0, a1, a0] ∧
    p.r.toNat = 2 ^ 8 * r1.toNat + r0.toNat ∧ p.g.toNat = 2 ^ 8 * g1.toNat + g0.toNat ∧
    p.b.toNat = 2 ^ 8 * b1.toNat + b0.toNat ∧ p.a.toNat = 2 ^ 8 * a1.toNat + a0.toNat
end

