-- ==== Sys2Proof/Laws/Encoding.lean ====
section
/-! SUPPORT. The fields of the encoded words: what each reads back from the word that its parts make. -/

namespace Sys2Proof

/-! ### Concatenation and extraction, as numbers -/

theorem append_toNat {a b : Nat} (x : BitVec a) (y : BitVec b) :
    (x ++ y).toNat = x.toNat * 2 ^ b + y.toNat := by
  rw [BitVec.toNat_append, Nat.shiftLeft_eq, Nat.mul_comm, Nat.two_pow_add_eq_or_of_lt y.isLt]

theorem extract_toNat {n : Nat} (w : BitVec n) (a b : Nat) :
    (w.extractLsb' a b).toNat = w.toNat / 2 ^ a % 2 ^ b := by
  simp [BitVec.extractLsb'_toNat, Nat.shiftRight_eq_div_pow]

theorem cmdData_toNat (ig : BitVec 28) (c : BitVec 4) : (ig ++ c : Word).toNat = ig.toNat * 16 + c.toNat :=
  append_toNat ig c

theorem bytes4_toNat (w x y z : Byte) :
    (w ++ (x ++ (y ++ z)) : Word).toNat = w.toNat * 2 ^ 24 + x.toNat * 2 ^ 16 + y.toNat * 2 ^ 8 + z.toNat := by
  rw [show (w ++ (x ++ (y ++ z)) : Word).toNat = _ from append_toNat w _, append_toNat x, append_toNat y]
  omega

theorem bytes3_toNat (x y z : Byte) :
    (x ++ (y ++ z) : FmtWord).toNat = x.toNat * 2 ^ 16 + y.toNat * 2 ^ 8 + z.toNat := by
  rw [show (x ++ (y ++ z) : FmtWord).toNat = _ from append_toNat x _, append_toNat y]
  omega

theorem inData_toNat (x : BitVec 24) (y : Byte) : (x ++ y : Word).toNat = x.toNat * 2 ^ 8 + y.toNat :=
  append_toNat x y

/-! ### Fields of a write's data -/

theorem cmdData_cmd (ig : BitVec 28) (c : BitVec 4) : (ig ++ c : Word).extractLsb' 0 4 = c := by
  apply BitVec.eq_of_toNat_eq; rw [extract_toNat, cmdData_toNat]; omega
theorem cmdData_ignored (ig : BitVec 28) (c : BitVec 4) : (ig ++ c : Word).extractLsb' 4 28 = ig := by
  apply BitVec.eq_of_toNat_eq; rw [extract_toNat, cmdData_toNat]; omega
theorem bytes4_0 (w x y z : Byte) : (w ++ (x ++ (y ++ z)) : Word).extractLsb' 0 8 = z := by
  apply BitVec.eq_of_toNat_eq; rw [extract_toNat, bytes4_toNat]; omega
theorem bytes4_1 (w x y z : Byte) : (w ++ (x ++ (y ++ z)) : Word).extractLsb' 8 8 = y := by
  apply BitVec.eq_of_toNat_eq; rw [extract_toNat, bytes4_toNat]; omega
theorem bytes4_2 (w x y z : Byte) : (w ++ (x ++ (y ++ z)) : Word).extractLsb' 16 8 = x := by
  apply BitVec.eq_of_toNat_eq; rw [extract_toNat, bytes4_toNat]; omega
theorem bytes4_3 (w x y z : Byte) : (w ++ (x ++ (y ++ z)) : Word).extractLsb' 24 8 = w := by
  apply BitVec.eq_of_toNat_eq; rw [extract_toNat, bytes4_toNat]; omega
theorem bytes3_0 (x y z : Byte) : (x ++ (y ++ z) : FmtWord).extractLsb' 0 8 = z := by
  apply BitVec.eq_of_toNat_eq; rw [extract_toNat, bytes3_toNat]; omega
theorem bytes3_1 (x y z : Byte) : (x ++ (y ++ z) : FmtWord).extractLsb' 8 8 = y := by
  apply BitVec.eq_of_toNat_eq; rw [extract_toNat, bytes3_toNat]; omega
theorem bytes3_2 (x y z : Byte) : (x ++ (y ++ z) : FmtWord).extractLsb' 16 8 = x := by
  apply BitVec.eq_of_toNat_eq; rw [extract_toNat, bytes3_toNat]; omega
theorem inData_byte (x : BitVec 24) (y : Byte) : (x ++ y : Word).extractLsb' 0 8 = y := by
  apply BitVec.eq_of_toNat_eq; rw [extract_toNat, inData_toNat]; omega
theorem inData_ignored (x : BitVec 24) (y : Byte) : (x ++ y : Word).extractLsb' 8 24 = x := by
  apply BitVec.eq_of_toNat_eq; rw [extract_toNat, inData_toNat]; omega

/-! ### T words -/

theorem mk_toNat (wr : Bool) (off : Byte) (data : Word) :
    (TWord.mk wr off data).toNat = wr.toNat * 2 ^ 40 + off.toNat * 2 ^ 32 + data.toNat := by
  unfold TWord.mk
  rw [show (BitVec.ofBool wr ++ (off ++ data) : TWord).toNat = _ from append_toNat (BitVec.ofBool wr) (off ++ data),
    append_toNat off data]
  cases wr <;> simp
  omega

theorem isWrite_toNat (w : TWord) : (TWord.isWrite w).toNat = w.toNat / 2 ^ 40 := by
  have hlt : w.toNat / 2 ^ 40 < 2 := by have := w.isLt; omega
  have h : TWord.isWrite w = decide (w.toNat / 2 ^ 40 % 2 = 1) := by
    rw [TWord.isWrite, BitVec.getLsbD, Nat.testBit_eq_decide_div_mod_eq]
  rw [h]
  by_cases h1 : w.toNat / 2 ^ 40 = 1
  · rw [h1]; rfl
  · rw [show w.toNat / 2 ^ 40 = 0 by omega]; rfl

@[simp] theorem offset_mk (wr : Bool) (off : Byte) (data : Word) : TWord.offset (TWord.mk wr off data) = off := by
  apply BitVec.eq_of_toNat_eq
  rw [TWord.offset, extract_toNat, mk_toNat]
  have := off.isLt; have := data.isLt
  cases wr <;> simp <;> omega

@[simp] theorem data_mk (wr : Bool) (off : Byte) (data : Word) : TWord.data (TWord.mk wr off data) = data := by
  apply BitVec.eq_of_toNat_eq
  rw [TWord.data, extract_toNat, mk_toNat]
  have := off.isLt; have := data.isLt
  cases wr <;> simp <;> omega

@[simp] theorem isWrite_mk (wr : Bool) (off : Byte) (data : Word) : TWord.isWrite (TWord.mk wr off data) = wr := by
  have h := isWrite_toNat (TWord.mk wr off data)
  have : (TWord.mk wr off data).toNat / 2 ^ 40 = wr.toNat := by
    rw [mk_toNat]; have := off.isLt; have := data.isLt; omega
  rw [this] at h
  cases wr <;> cases hw : TWord.isWrite (TWord.mk _ off data) <;> simp [hw] at h ⊢

/-- A T word is made of its three fields. -/
theorem mk_fields (w : TWord) : TWord.mk (TWord.isWrite w) (TWord.offset w) (TWord.data w) = w := by
  apply BitVec.eq_of_toNat_eq
  rw [mk_toNat, isWrite_toNat, TWord.offset, TWord.data, extract_toNat, extract_toNat]
  have := w.isLt
  omega

/-- An aligned T word decodes by its direction and its offset. -/
theorem decode_mk (wr : Bool) {off : Byte} (data : Word) (h : aligned off = true) :
    decode (.t (TWord.mk wr off data)) = if wr then .ok (decodeWrite off data) else .ok (.rd off) := by
  simp [decode, decodeT, h]

/-- A write to CTRL decodes by its command. -/
theorem decodeCmd_append (ig : BitVec 28) (c : BitVec 4) :
    decodeCmd (ig ++ c) =
      match c.toNat with
      | 0 => .nop ig
      | 1 => .start ig
      | 2 => .abort ig
      | 3 => .eos ig
      | 4 => .palClear ig
      | 5 => .pop ig
      | _ => .cmdReserved c ig := by
  unfold decodeCmd
  rw [cmdData_cmd, cmdData_ignored] <;> rfl

theorem decode_ctrl (ig : BitVec 28) (c : BitVec 4) :
    decode (.t (TWord.mk true 0x00 (ig ++ c))) = .ok (decodeCmd (ig ++ c)) := by
  rw [decode_mk _ _ (by decide)]; rfl

/-! ### Filter-type bytes -/

theorem decodeFilter_illegal {x : Byte} (h : 5 ≤ x.toNat) : decodeFilter x = none := by
  revert x; decide

/-! ### Mode words -/

theorem legalPair_iff (c d : Byte) : legalPair c d = true ↔ (c.toNat, d.toNat) ∈ legalPairs := by
  rw [legalPair, List.contains_iff_mem]

theorem legalType_iff (c : Byte) : legalType c = true ↔ c.toNat ∈ [0, 2, 3, 4, 6] := by simp [legalType]

/-- The colour type of a legal pair is a legal type. -/
theorem legalType_of_legalPair {c d : Byte} (h : legalPair c d = true) : legalType c = true := by
  rw [legalPair_iff] at h
  rw [legalType_iff]
  simp [legalPairs] at h ⊢
  omega

/-- The decode-mode map and the list of legal pairs agree. -/
theorem decodeMode_none_iff (d c : Byte) : decodeMode d c = none ↔ legalPair c d = false := by
  have h : (decodeMode d c).isNone = !legalPair c d := by
    unfold decodeMode legalPair legalPairs
    split <;> simp only [Option.isNone_none, Option.isNone_some, List.contains_eq_mem, *]
    case h_16 =>
      simp only [eq_comm (a := true), Bool.not_eq_true', decide_eq_false_iff_not, List.mem_cons, Prod.mk.injEq]
      rintro (h | h | h | h | h | h | h | h | h | h | h | h | h | h | h | h)
      all_goals first
        | exact absurd h.2 (by intro h2; solve_by_elim [h.1])
        | cases h
    all_goals rfl
  cases hm : decodeMode d c <;> simp [hm] at h <;> simp [h]

/-- What a mode word decodes to, from its three bytes. -/
theorem decode_fmt_bytes (d c i : Byte) : decode (.fmt (i ++ (c ++ d))) = .ok (decodeFmtFields d c i) := by
  simp only [decode, decodeFmt, FmtWord.depth, FmtWord.ctype, FmtWord.interlace, bytes3_0, bytes3_1, bytes3_2]

end Sys2Proof
end

