-- ==== Sys2Proof/Laws/State.lean ====
section
/-! SUPPORT. What each named update of the state does to each field: one lemma per field per update. -/

namespace Sys2Proof.Machine

variable (s : State)

/-! ### raise -/

@[simp] theorem State.raise_st (k : ErrKind) (c : BitVec 4) (r : Word) (n : Wide) : (s.raise k c r n).st = .error := rfl
@[simp] theorem State.raise_cfgWidth (k : ErrKind) (c : BitVec 4) (r : Word) (n : Wide) : (s.raise k c r n).cfgWidth = s.cfgWidth := rfl
@[simp] theorem State.raise_cfgHeight (k : ErrKind) (c : BitVec 4) (r : Word) (n : Wide) : (s.raise k c r n).cfgHeight = s.cfgHeight := rfl
@[simp] theorem State.raise_cfgDepth (k : ErrKind) (c : BitVec 4) (r : Word) (n : Wide) : (s.raise k c r n).cfgDepth = s.cfgDepth := rfl
@[simp] theorem State.raise_cfgCtype (k : ErrKind) (c : BitVec 4) (r : Word) (n : Wide) : (s.raise k c r n).cfgCtype = s.cfgCtype := rfl
@[simp] theorem State.raise_cfgInterlace (k : ErrKind) (c : BitVec 4) (r : Word) (n : Wide) : (s.raise k c r n).cfgInterlace = s.cfgInterlace := rfl
@[simp] theorem State.raise_pal (k : ErrKind) (c : BitVec 4) (r : Word) (n : Wide) : (s.raise k c r n).pal = s.pal := rfl
@[simp] theorem State.raise_palLen (k : ErrKind) (c : BitVec 4) (r : Word) (n : Wide) : (s.raise k c r n).palLen = s.palLen := rfl
@[simp] theorem State.raise_row (k : ErrKind) (c : BitVec 4) (r : Word) (n : Wide) : (s.raise k c r n).row = s.row := rfl
@[simp] theorem State.raise_phase (k : ErrKind) (c : BitVec 4) (r : Word) (n : Wide) : (s.raise k c r n).phase = s.phase := rfl
@[simp] theorem State.raise_col (k : ErrKind) (c : BitVec 4) (r : Word) (n : Wide) : (s.raise k c r n).col = s.col := rfl
@[simp] theorem State.raise_ftype (k : ErrKind) (c : BitVec 4) (r : Word) (n : Wide) : (s.raise k c r n).ftype = s.ftype := rfl
@[simp] theorem State.raise_prior (k : ErrKind) (c : BitVec 4) (r : Word) (n : Wide) : (s.raise k c r n).prior = s.prior := rfl
@[simp] theorem State.raise_cur (k : ErrKind) (c : BitVec 4) (r : Word) (n : Wide) : (s.raise k c r n).cur = s.cur := rfl
@[simp] theorem State.raise_pend (k : ErrKind) (c : BitVec 4) (r : Word) (n : Wide) : (s.raise k c r n).pend = s.pend := rfl
@[simp] theorem State.raise_xcol (k : ErrKind) (c : BitVec 4) (r : Word) (n : Wide) : (s.raise k c r n).xcol = s.xcol := rfl
@[simp] theorem State.raise_cursor (k : ErrKind) (c : BitVec 4) (r : Word) (n : Wide) : (s.raise k c r n).cursor = s.cursor := rfl
@[simp] theorem State.raise_outValid (k : ErrKind) (c : BitVec 4) (r : Word) (n : Wide) : (s.raise k c r n).outValid = false := rfl
@[simp] theorem State.raise_out (k : ErrKind) (c : BitVec 4) (r : Word) (n : Wide) : (s.raise k c r n).out = Rgba16.zero := rfl
@[simp] theorem State.raise_pixels (k : ErrKind) (c : BitVec 4) (r : Word) (n : Wide) : (s.raise k c r n).pixels = s.pixels := rfl
@[simp] theorem State.raise_errKind (k : ErrKind) (c : BitVec 4) (r : Word) (n : Wide) : (s.raise k c r n).errKind = k.code := rfl
@[simp] theorem State.raise_errCause (k : ErrKind) (c : BitVec 4) (r : Word) (n : Wide) : (s.raise k c r n).errCause = c := rfl
@[simp] theorem State.raise_errRow (k : ErrKind) (c : BitVec 4) (r : Word) (n : Wide) : (s.raise k c r n).errRow = r := rfl
@[simp] theorem State.raise_errSample (k : ErrKind) (c : BitVec 4) (r : Word) (n : Wide) : (s.raise k c r n).errSample = n := rfl
@[simp] theorem State.raise_config (k : ErrKind) (c : BitVec 4) (r : Word) (n : Wide) : (s.raise k c r n).config = s.config := rfl
@[simp] theorem State.raise_pending (k : ErrKind) (c : BitVec 4) (r : Word) (n : Wide) : (s.raise k c r n).pending = s.pending := rfl
@[simp] theorem State.raise_rdData (k : ErrKind) (c : BitVec 4) (r : Word) (n : Wide) : (s.raise k c r n).rdData = s.rdData := rfl
@[simp] theorem State.raise_inByte (k : ErrKind) (c : BitVec 4) (r : Word) (n : Wide) : (s.raise k c r n).inByte = s.inByte := rfl

/-! ### protocolError -/

@[simp] theorem State.protocolError_st (c : BitVec 4) : (s.protocolError c).st = .error := rfl
@[simp] theorem State.protocolError_cfgWidth (c : BitVec 4) : (s.protocolError c).cfgWidth = s.cfgWidth := rfl
@[simp] theorem State.protocolError_cfgHeight (c : BitVec 4) : (s.protocolError c).cfgHeight = s.cfgHeight := rfl
@[simp] theorem State.protocolError_cfgDepth (c : BitVec 4) : (s.protocolError c).cfgDepth = s.cfgDepth := rfl
@[simp] theorem State.protocolError_cfgCtype (c : BitVec 4) : (s.protocolError c).cfgCtype = s.cfgCtype := rfl
@[simp] theorem State.protocolError_cfgInterlace (c : BitVec 4) : (s.protocolError c).cfgInterlace = s.cfgInterlace := rfl
@[simp] theorem State.protocolError_pal (c : BitVec 4) : (s.protocolError c).pal = s.pal := rfl
@[simp] theorem State.protocolError_palLen (c : BitVec 4) : (s.protocolError c).palLen = s.palLen := rfl
@[simp] theorem State.protocolError_row (c : BitVec 4) : (s.protocolError c).row = s.row := rfl
@[simp] theorem State.protocolError_phase (c : BitVec 4) : (s.protocolError c).phase = s.phase := rfl
@[simp] theorem State.protocolError_col (c : BitVec 4) : (s.protocolError c).col = s.col := rfl
@[simp] theorem State.protocolError_ftype (c : BitVec 4) : (s.protocolError c).ftype = s.ftype := rfl
@[simp] theorem State.protocolError_prior (c : BitVec 4) : (s.protocolError c).prior = s.prior := rfl
@[simp] theorem State.protocolError_cur (c : BitVec 4) : (s.protocolError c).cur = s.cur := rfl
@[simp] theorem State.protocolError_pend (c : BitVec 4) : (s.protocolError c).pend = s.pend := rfl
@[simp] theorem State.protocolError_xcol (c : BitVec 4) : (s.protocolError c).xcol = s.xcol := rfl
@[simp] theorem State.protocolError_cursor (c : BitVec 4) : (s.protocolError c).cursor = s.cursor := rfl
@[simp] theorem State.protocolError_outValid (c : BitVec 4) : (s.protocolError c).outValid = false := rfl
@[simp] theorem State.protocolError_out (c : BitVec 4) : (s.protocolError c).out = Rgba16.zero := rfl
@[simp] theorem State.protocolError_pixels (c : BitVec 4) : (s.protocolError c).pixels = s.pixels := rfl
@[simp] theorem State.protocolError_errKind (c : BitVec 4) : (s.protocolError c).errKind = 6 := rfl
@[simp] theorem State.protocolError_errCause (c : BitVec 4) : (s.protocolError c).errCause = c := rfl
@[simp] theorem State.protocolError_errRow (c : BitVec 4) : (s.protocolError c).errRow = s.row := rfl
@[simp] theorem State.protocolError_errSample (c : BitVec 4) : (s.protocolError c).errSample = 0 := rfl
@[simp] theorem State.protocolError_config (c : BitVec 4) : (s.protocolError c).config = s.config := rfl
@[simp] theorem State.protocolError_pending (c : BitVec 4) : (s.protocolError c).pending = s.pending := rfl
@[simp] theorem State.protocolError_rdData (c : BitVec 4) : (s.protocolError c).rdData = s.rdData := rfl
@[simp] theorem State.protocolError_inByte (c : BitVec 4) : (s.protocolError c).inByte = s.inByte := rfl

/-! ### clearError -/

@[simp] theorem State.clearError_st : (s.clearError).st = s.st := rfl
@[simp] theorem State.clearError_cfgWidth : (s.clearError).cfgWidth = s.cfgWidth := rfl
@[simp] theorem State.clearError_cfgHeight : (s.clearError).cfgHeight = s.cfgHeight := rfl
@[simp] theorem State.clearError_cfgDepth : (s.clearError).cfgDepth = s.cfgDepth := rfl
@[simp] theorem State.clearError_cfgCtype : (s.clearError).cfgCtype = s.cfgCtype := rfl
@[simp] theorem State.clearError_cfgInterlace : (s.clearError).cfgInterlace = s.cfgInterlace := rfl
@[simp] theorem State.clearError_pal : (s.clearError).pal = s.pal := rfl
@[simp] theorem State.clearError_palLen : (s.clearError).palLen = s.palLen := rfl
@[simp] theorem State.clearError_row : (s.clearError).row = s.row := rfl
@[simp] theorem State.clearError_phase : (s.clearError).phase = s.phase := rfl
@[simp] theorem State.clearError_col : (s.clearError).col = s.col := rfl
@[simp] theorem State.clearError_ftype : (s.clearError).ftype = s.ftype := rfl
@[simp] theorem State.clearError_prior : (s.clearError).prior = s.prior := rfl
@[simp] theorem State.clearError_cur : (s.clearError).cur = s.cur := rfl
@[simp] theorem State.clearError_pend : (s.clearError).pend = s.pend := rfl
@[simp] theorem State.clearError_xcol : (s.clearError).xcol = s.xcol := rfl
@[simp] theorem State.clearError_cursor : (s.clearError).cursor = s.cursor := rfl
@[simp] theorem State.clearError_outValid : (s.clearError).outValid = s.outValid := rfl
@[simp] theorem State.clearError_out : (s.clearError).out = s.out := rfl
@[simp] theorem State.clearError_pixels : (s.clearError).pixels = s.pixels := rfl
@[simp] theorem State.clearError_errKind : (s.clearError).errKind = 0 := rfl
@[simp] theorem State.clearError_errCause : (s.clearError).errCause = 0 := rfl
@[simp] theorem State.clearError_errRow : (s.clearError).errRow = 0 := rfl
@[simp] theorem State.clearError_errSample : (s.clearError).errSample = 0 := rfl
@[simp] theorem State.clearError_config : (s.clearError).config = s.config := rfl
@[simp] theorem State.clearError_pending : (s.clearError).pending = s.pending := rfl
@[simp] theorem State.clearError_rdData : (s.clearError).rdData = s.rdData := rfl
@[simp] theorem State.clearError_inByte : (s.clearError).inByte = s.inByte := rfl

/-! ### initRun -/

@[simp] theorem State.initRun_st : (s.initRun).st = s.st := rfl
@[simp] theorem State.initRun_cfgWidth : (s.initRun).cfgWidth = s.cfgWidth := rfl
@[simp] theorem State.initRun_cfgHeight : (s.initRun).cfgHeight = s.cfgHeight := rfl
@[simp] theorem State.initRun_cfgDepth : (s.initRun).cfgDepth = s.cfgDepth := rfl
@[simp] theorem State.initRun_cfgCtype : (s.initRun).cfgCtype = s.cfgCtype := rfl
@[simp] theorem State.initRun_cfgInterlace : (s.initRun).cfgInterlace = s.cfgInterlace := rfl
@[simp] theorem State.initRun_pal : (s.initRun).pal = s.pal := rfl
@[simp] theorem State.initRun_palLen : (s.initRun).palLen = s.palLen := rfl
@[simp] theorem State.initRun_row : (s.initRun).row = 0 := rfl
@[simp] theorem State.initRun_phase : (s.initRun).phase = .filt := rfl
@[simp] theorem State.initRun_col : (s.initRun).col = 0 := rfl
@[simp] theorem State.initRun_ftype : (s.initRun).ftype = 0 := rfl
@[simp] theorem State.initRun_prior : (s.initRun).prior = s.prior := rfl
@[simp] theorem State.initRun_cur : (s.initRun).cur = s.cur := rfl
@[simp] theorem State.initRun_pend : (s.initRun).pend = false := rfl
@[simp] theorem State.initRun_xcol : (s.initRun).xcol = 0 := rfl
@[simp] theorem State.initRun_cursor : (s.initRun).cursor = 0 := rfl
@[simp] theorem State.initRun_outValid : (s.initRun).outValid = false := rfl
@[simp] theorem State.initRun_out : (s.initRun).out = Rgba16.zero := rfl
@[simp] theorem State.initRun_pixels : (s.initRun).pixels = 0 := rfl
@[simp] theorem State.initRun_errKind : (s.initRun).errKind = s.errKind := rfl
@[simp] theorem State.initRun_errCause : (s.initRun).errCause = s.errCause := rfl
@[simp] theorem State.initRun_errRow : (s.initRun).errRow = s.errRow := rfl
@[simp] theorem State.initRun_errSample : (s.initRun).errSample = s.errSample := rfl
@[simp] theorem State.initRun_config : (s.initRun).config = s.config := rfl
@[simp] theorem State.initRun_pending : (s.initRun).pending = s.pending := rfl
@[simp] theorem State.initRun_rdData : (s.initRun).rdData = s.rdData := rfl
@[simp] theorem State.initRun_inByte : (s.initRun).inByte = s.inByte := rfl

/-! ### abort -/

@[simp] theorem State.abort_st : (s.abort).st = .idle := rfl
@[simp] theorem State.abort_cfgWidth : (s.abort).cfgWidth = s.cfgWidth := rfl
@[simp] theorem State.abort_cfgHeight : (s.abort).cfgHeight = s.cfgHeight := rfl
@[simp] theorem State.abort_cfgDepth : (s.abort).cfgDepth = s.cfgDepth := rfl
@[simp] theorem State.abort_cfgCtype : (s.abort).cfgCtype = s.cfgCtype := rfl
@[simp] theorem State.abort_cfgInterlace : (s.abort).cfgInterlace = s.cfgInterlace := rfl
@[simp] theorem State.abort_pal : (s.abort).pal = s.pal := rfl
@[simp] theorem State.abort_palLen : (s.abort).palLen = s.palLen := rfl
@[simp] theorem State.abort_row : (s.abort).row = 0 := rfl
@[simp] theorem State.abort_phase : (s.abort).phase = .filt := rfl
@[simp] theorem State.abort_col : (s.abort).col = 0 := rfl
@[simp] theorem State.abort_ftype : (s.abort).ftype = 0 := rfl
@[simp] theorem State.abort_prior : (s.abort).prior = s.prior := rfl
@[simp] theorem State.abort_cur : (s.abort).cur = s.cur := rfl
@[simp] theorem State.abort_pend : (s.abort).pend = false := rfl
@[simp] theorem State.abort_xcol : (s.abort).xcol = 0 := rfl
@[simp] theorem State.abort_cursor : (s.abort).cursor = 0 := rfl
@[simp] theorem State.abort_outValid : (s.abort).outValid = false := rfl
@[simp] theorem State.abort_out : (s.abort).out = Rgba16.zero := rfl
@[simp] theorem State.abort_pixels : (s.abort).pixels = 0 := rfl
@[simp] theorem State.abort_errKind : (s.abort).errKind = 0 := rfl
@[simp] theorem State.abort_errCause : (s.abort).errCause = 0 := rfl
@[simp] theorem State.abort_errRow : (s.abort).errRow = 0 := rfl
@[simp] theorem State.abort_errSample : (s.abort).errSample = 0 := rfl
@[simp] theorem State.abort_config : (s.abort).config = s.config := rfl
@[simp] theorem State.abort_pending : (s.abort).pending = s.pending := rfl
@[simp] theorem State.abort_rdData : (s.abort).rdData = s.rdData := rfl
@[simp] theorem State.abort_inByte : (s.abort).inByte = s.inByte := rfl

/-! ### advance -/

@[simp] theorem State.advance_st (n : Nat) : (s.advance n).st = s.st := rfl
@[simp] theorem State.advance_cfgWidth (n : Nat) : (s.advance n).cfgWidth = s.cfgWidth := rfl
@[simp] theorem State.advance_cfgHeight (n : Nat) : (s.advance n).cfgHeight = s.cfgHeight := rfl
@[simp] theorem State.advance_cfgDepth (n : Nat) : (s.advance n).cfgDepth = s.cfgDepth := rfl
@[simp] theorem State.advance_cfgCtype (n : Nat) : (s.advance n).cfgCtype = s.cfgCtype := rfl
@[simp] theorem State.advance_cfgInterlace (n : Nat) : (s.advance n).cfgInterlace = s.cfgInterlace := rfl
@[simp] theorem State.advance_pal (n : Nat) : (s.advance n).pal = s.pal := rfl
@[simp] theorem State.advance_palLen (n : Nat) : (s.advance n).palLen = s.palLen := rfl
@[simp] theorem State.advance_row (n : Nat) : (s.advance n).row = s.row := rfl
@[simp] theorem State.advance_phase (n : Nat) : (s.advance n).phase = s.phase := rfl
@[simp] theorem State.advance_col (n : Nat) : (s.advance n).col = s.col := rfl
@[simp] theorem State.advance_ftype (n : Nat) : (s.advance n).ftype = s.ftype := rfl
@[simp] theorem State.advance_prior (n : Nat) : (s.advance n).prior = s.prior := rfl
@[simp] theorem State.advance_cur (n : Nat) : (s.advance n).cur = s.cur := rfl
@[simp] theorem State.advance_pend (n : Nat) : (s.advance n).pend = s.pend := rfl
@[simp] theorem State.advance_xcol (n : Nat) : (s.advance n).xcol = s.xcol := rfl
@[simp] theorem State.advance_cursor (n : Nat) : (s.advance n).cursor = s.cursor + BitVec.ofNat 64 n := rfl
@[simp] theorem State.advance_outValid (n : Nat) : (s.advance n).outValid = s.outValid := rfl
@[simp] theorem State.advance_out (n : Nat) : (s.advance n).out = s.out := rfl
@[simp] theorem State.advance_pixels (n : Nat) : (s.advance n).pixels = s.pixels := rfl
@[simp] theorem State.advance_errKind (n : Nat) : (s.advance n).errKind = s.errKind := rfl
@[simp] theorem State.advance_errCause (n : Nat) : (s.advance n).errCause = s.errCause := rfl
@[simp] theorem State.advance_errRow (n : Nat) : (s.advance n).errRow = s.errRow := rfl
@[simp] theorem State.advance_errSample (n : Nat) : (s.advance n).errSample = s.errSample := rfl
@[simp] theorem State.advance_config (n : Nat) : (s.advance n).config = s.config := rfl
@[simp] theorem State.advance_pending (n : Nat) : (s.advance n).pending = s.pending := rfl
@[simp] theorem State.advance_rdData (n : Nat) : (s.advance n).rdData = s.rdData := rfl
@[simp] theorem State.advance_inByte (n : Nat) : (s.advance n).inByte = s.inByte := rfl

/-! ### align -/

@[simp] theorem State.align_st : (s.align).st = s.st := rfl
@[simp] theorem State.align_cfgWidth : (s.align).cfgWidth = s.cfgWidth := rfl
@[simp] theorem State.align_cfgHeight : (s.align).cfgHeight = s.cfgHeight := rfl
@[simp] theorem State.align_cfgDepth : (s.align).cfgDepth = s.cfgDepth := rfl
@[simp] theorem State.align_cfgCtype : (s.align).cfgCtype = s.cfgCtype := rfl
@[simp] theorem State.align_cfgInterlace : (s.align).cfgInterlace = s.cfgInterlace := rfl
@[simp] theorem State.align_pal : (s.align).pal = s.pal := rfl
@[simp] theorem State.align_palLen : (s.align).palLen = s.palLen := rfl
@[simp] theorem State.align_row : (s.align).row = s.row := rfl
@[simp] theorem State.align_phase : (s.align).phase = s.phase := rfl
@[simp] theorem State.align_col : (s.align).col = s.col := rfl
@[simp] theorem State.align_ftype : (s.align).ftype = s.ftype := rfl
@[simp] theorem State.align_prior : (s.align).prior = s.prior := rfl
@[simp] theorem State.align_cur : (s.align).cur = s.cur := rfl
@[simp] theorem State.align_pend : (s.align).pend = s.pend := rfl
@[simp] theorem State.align_xcol : (s.align).xcol = s.xcol := rfl
@[simp] theorem State.align_cursor : (s.align).cursor = s.cursor + BitVec.ofNat 64 ((8 - s.bitOffset) % 8) := rfl
@[simp] theorem State.align_outValid : (s.align).outValid = s.outValid := rfl
@[simp] theorem State.align_out : (s.align).out = s.out := rfl
@[simp] theorem State.align_pixels : (s.align).pixels = s.pixels := rfl
@[simp] theorem State.align_errKind : (s.align).errKind = s.errKind := rfl
@[simp] theorem State.align_errCause : (s.align).errCause = s.errCause := rfl
@[simp] theorem State.align_errRow : (s.align).errRow = s.errRow := rfl
@[simp] theorem State.align_errSample : (s.align).errSample = s.errSample := rfl
@[simp] theorem State.align_config : (s.align).config = s.config := rfl
@[simp] theorem State.align_pending : (s.align).pending = s.pending := rfl
@[simp] theorem State.align_rdData : (s.align).rdData = s.rdData := rfl
@[simp] theorem State.align_inByte : (s.align).inByte = s.inByte := rfl

/-! ### setOut -/

@[simp] theorem State.setOut_st (p : Rgba16) : (s.setOut p).st = s.st := rfl
@[simp] theorem State.setOut_cfgWidth (p : Rgba16) : (s.setOut p).cfgWidth = s.cfgWidth := rfl
@[simp] theorem State.setOut_cfgHeight (p : Rgba16) : (s.setOut p).cfgHeight = s.cfgHeight := rfl
@[simp] theorem State.setOut_cfgDepth (p : Rgba16) : (s.setOut p).cfgDepth = s.cfgDepth := rfl
@[simp] theorem State.setOut_cfgCtype (p : Rgba16) : (s.setOut p).cfgCtype = s.cfgCtype := rfl
@[simp] theorem State.setOut_cfgInterlace (p : Rgba16) : (s.setOut p).cfgInterlace = s.cfgInterlace := rfl
@[simp] theorem State.setOut_pal (p : Rgba16) : (s.setOut p).pal = s.pal := rfl
@[simp] theorem State.setOut_palLen (p : Rgba16) : (s.setOut p).palLen = s.palLen := rfl
@[simp] theorem State.setOut_row (p : Rgba16) : (s.setOut p).row = s.row := rfl
@[simp] theorem State.setOut_phase (p : Rgba16) : (s.setOut p).phase = s.phase := rfl
@[simp] theorem State.setOut_col (p : Rgba16) : (s.setOut p).col = s.col := rfl
@[simp] theorem State.setOut_ftype (p : Rgba16) : (s.setOut p).ftype = s.ftype := rfl
@[simp] theorem State.setOut_prior (p : Rgba16) : (s.setOut p).prior = s.prior := rfl
@[simp] theorem State.setOut_cur (p : Rgba16) : (s.setOut p).cur = s.cur := rfl
@[simp] theorem State.setOut_pend (p : Rgba16) : (s.setOut p).pend = s.pend := rfl
@[simp] theorem State.setOut_xcol (p : Rgba16) : (s.setOut p).xcol = s.xcol := rfl
@[simp] theorem State.setOut_cursor (p : Rgba16) : (s.setOut p).cursor = s.cursor := rfl
@[simp] theorem State.setOut_outValid (p : Rgba16) : (s.setOut p).outValid = true := rfl
@[simp] theorem State.setOut_out (p : Rgba16) : (s.setOut p).out = p := rfl
@[simp] theorem State.setOut_pixels (p : Rgba16) : (s.setOut p).pixels = s.pixels := rfl
@[simp] theorem State.setOut_errKind (p : Rgba16) : (s.setOut p).errKind = s.errKind := rfl
@[simp] theorem State.setOut_errCause (p : Rgba16) : (s.setOut p).errCause = s.errCause := rfl
@[simp] theorem State.setOut_errRow (p : Rgba16) : (s.setOut p).errRow = s.errRow := rfl
@[simp] theorem State.setOut_errSample (p : Rgba16) : (s.setOut p).errSample = s.errSample := rfl
@[simp] theorem State.setOut_config (p : Rgba16) : (s.setOut p).config = s.config := rfl
@[simp] theorem State.setOut_pending (p : Rgba16) : (s.setOut p).pending = s.pending := rfl
@[simp] theorem State.setOut_rdData (p : Rgba16) : (s.setOut p).rdData = s.rdData := rfl
@[simp] theorem State.setOut_inByte (p : Rgba16) : (s.setOut p).inByte = s.inByte := rfl

/-! ### clearOut -/

@[simp] theorem State.clearOut_st : (s.clearOut).st = s.st := rfl
@[simp] theorem State.clearOut_cfgWidth : (s.clearOut).cfgWidth = s.cfgWidth := rfl
@[simp] theorem State.clearOut_cfgHeight : (s.clearOut).cfgHeight = s.cfgHeight := rfl
@[simp] theorem State.clearOut_cfgDepth : (s.clearOut).cfgDepth = s.cfgDepth := rfl
@[simp] theorem State.clearOut_cfgCtype : (s.clearOut).cfgCtype = s.cfgCtype := rfl
@[simp] theorem State.clearOut_cfgInterlace : (s.clearOut).cfgInterlace = s.cfgInterlace := rfl
@[simp] theorem State.clearOut_pal : (s.clearOut).pal = s.pal := rfl
@[simp] theorem State.clearOut_palLen : (s.clearOut).palLen = s.palLen := rfl
@[simp] theorem State.clearOut_row : (s.clearOut).row = s.row := rfl
@[simp] theorem State.clearOut_phase : (s.clearOut).phase = s.phase := rfl
@[simp] theorem State.clearOut_col : (s.clearOut).col = s.col := rfl
@[simp] theorem State.clearOut_ftype : (s.clearOut).ftype = s.ftype := rfl
@[simp] theorem State.clearOut_prior : (s.clearOut).prior = s.prior := rfl
@[simp] theorem State.clearOut_cur : (s.clearOut).cur = s.cur := rfl
@[simp] theorem State.clearOut_pend : (s.clearOut).pend = s.pend := rfl
@[simp] theorem State.clearOut_xcol : (s.clearOut).xcol = s.xcol := rfl
@[simp] theorem State.clearOut_cursor : (s.clearOut).cursor = s.cursor := rfl
@[simp] theorem State.clearOut_outValid : (s.clearOut).outValid = false := rfl
@[simp] theorem State.clearOut_out : (s.clearOut).out = Rgba16.zero := rfl
@[simp] theorem State.clearOut_pixels : (s.clearOut).pixels = s.pixels := rfl
@[simp] theorem State.clearOut_errKind : (s.clearOut).errKind = s.errKind := rfl
@[simp] theorem State.clearOut_errCause : (s.clearOut).errCause = s.errCause := rfl
@[simp] theorem State.clearOut_errRow : (s.clearOut).errRow = s.errRow := rfl
@[simp] theorem State.clearOut_errSample : (s.clearOut).errSample = s.errSample := rfl
@[simp] theorem State.clearOut_config : (s.clearOut).config = s.config := rfl
@[simp] theorem State.clearOut_pending : (s.clearOut).pending = s.pending := rfl
@[simp] theorem State.clearOut_rdData : (s.clearOut).rdData = s.rdData := rfl
@[simp] theorem State.clearOut_inByte : (s.clearOut).inByte = s.inByte := rfl

/-! ### enqueueFirst -/

@[simp] theorem State.enqueueFirst_st (e : HostEvent) : (s.enqueueFirst e).st = s.st := rfl
@[simp] theorem State.enqueueFirst_cfgWidth (e : HostEvent) : (s.enqueueFirst e).cfgWidth = s.cfgWidth := rfl
@[simp] theorem State.enqueueFirst_cfgHeight (e : HostEvent) : (s.enqueueFirst e).cfgHeight = s.cfgHeight := rfl
@[simp] theorem State.enqueueFirst_cfgDepth (e : HostEvent) : (s.enqueueFirst e).cfgDepth = s.cfgDepth := rfl
@[simp] theorem State.enqueueFirst_cfgCtype (e : HostEvent) : (s.enqueueFirst e).cfgCtype = s.cfgCtype := rfl
@[simp] theorem State.enqueueFirst_cfgInterlace (e : HostEvent) : (s.enqueueFirst e).cfgInterlace = s.cfgInterlace := rfl
@[simp] theorem State.enqueueFirst_pal (e : HostEvent) : (s.enqueueFirst e).pal = s.pal := rfl
@[simp] theorem State.enqueueFirst_palLen (e : HostEvent) : (s.enqueueFirst e).palLen = s.palLen := rfl
@[simp] theorem State.enqueueFirst_row (e : HostEvent) : (s.enqueueFirst e).row = s.row := rfl
@[simp] theorem State.enqueueFirst_phase (e : HostEvent) : (s.enqueueFirst e).phase = s.phase := rfl
@[simp] theorem State.enqueueFirst_col (e : HostEvent) : (s.enqueueFirst e).col = s.col := rfl
@[simp] theorem State.enqueueFirst_ftype (e : HostEvent) : (s.enqueueFirst e).ftype = s.ftype := rfl
@[simp] theorem State.enqueueFirst_prior (e : HostEvent) : (s.enqueueFirst e).prior = s.prior := rfl
@[simp] theorem State.enqueueFirst_cur (e : HostEvent) : (s.enqueueFirst e).cur = s.cur := rfl
@[simp] theorem State.enqueueFirst_pend (e : HostEvent) : (s.enqueueFirst e).pend = s.pend := rfl
@[simp] theorem State.enqueueFirst_xcol (e : HostEvent) : (s.enqueueFirst e).xcol = s.xcol := rfl
@[simp] theorem State.enqueueFirst_cursor (e : HostEvent) : (s.enqueueFirst e).cursor = s.cursor := rfl
@[simp] theorem State.enqueueFirst_outValid (e : HostEvent) : (s.enqueueFirst e).outValid = s.outValid := rfl
@[simp] theorem State.enqueueFirst_out (e : HostEvent) : (s.enqueueFirst e).out = s.out := rfl
@[simp] theorem State.enqueueFirst_pixels (e : HostEvent) : (s.enqueueFirst e).pixels = s.pixels := rfl
@[simp] theorem State.enqueueFirst_errKind (e : HostEvent) : (s.enqueueFirst e).errKind = s.errKind := rfl
@[simp] theorem State.enqueueFirst_errCause (e : HostEvent) : (s.enqueueFirst e).errCause = s.errCause := rfl
@[simp] theorem State.enqueueFirst_errRow (e : HostEvent) : (s.enqueueFirst e).errRow = s.errRow := rfl
@[simp] theorem State.enqueueFirst_errSample (e : HostEvent) : (s.enqueueFirst e).errSample = s.errSample := rfl
@[simp] theorem State.enqueueFirst_config (e : HostEvent) : (s.enqueueFirst e).config = s.config := rfl
@[simp] theorem State.enqueueFirst_pending (e : HostEvent) : (s.enqueueFirst e).pending = e :: s.pending := rfl
@[simp] theorem State.enqueueFirst_rdData (e : HostEvent) : (s.enqueueFirst e).rdData = s.rdData := rfl
@[simp] theorem State.enqueueFirst_inByte (e : HostEvent) : (s.enqueueFirst e).inByte = s.inByte := rfl

/-! ### hardReset -/

@[simp] theorem State.hardReset_st : s.hardReset.st = (State.resetWith s.config).st := rfl
@[simp] theorem State.hardReset_cfgWidth : s.hardReset.cfgWidth = (State.resetWith s.config).cfgWidth := rfl
@[simp] theorem State.hardReset_cfgHeight : s.hardReset.cfgHeight = (State.resetWith s.config).cfgHeight := rfl
@[simp] theorem State.hardReset_cfgDepth : s.hardReset.cfgDepth = (State.resetWith s.config).cfgDepth := rfl
@[simp] theorem State.hardReset_cfgCtype : s.hardReset.cfgCtype = (State.resetWith s.config).cfgCtype := rfl
@[simp] theorem State.hardReset_cfgInterlace : s.hardReset.cfgInterlace = (State.resetWith s.config).cfgInterlace := rfl
@[simp] theorem State.hardReset_pal : s.hardReset.pal = (State.resetWith s.config).pal := rfl
@[simp] theorem State.hardReset_palLen : s.hardReset.palLen = (State.resetWith s.config).palLen := rfl
@[simp] theorem State.hardReset_row : s.hardReset.row = (State.resetWith s.config).row := rfl
@[simp] theorem State.hardReset_phase : s.hardReset.phase = (State.resetWith s.config).phase := rfl
@[simp] theorem State.hardReset_col : s.hardReset.col = (State.resetWith s.config).col := rfl
@[simp] theorem State.hardReset_ftype : s.hardReset.ftype = (State.resetWith s.config).ftype := rfl
@[simp] theorem State.hardReset_prior : s.hardReset.prior = (State.resetWith s.config).prior := rfl
@[simp] theorem State.hardReset_cur : s.hardReset.cur = (State.resetWith s.config).cur := rfl
@[simp] theorem State.hardReset_pend : s.hardReset.pend = (State.resetWith s.config).pend := rfl
@[simp] theorem State.hardReset_xcol : s.hardReset.xcol = (State.resetWith s.config).xcol := rfl
@[simp] theorem State.hardReset_cursor : s.hardReset.cursor = (State.resetWith s.config).cursor := rfl
@[simp] theorem State.hardReset_outValid : s.hardReset.outValid = (State.resetWith s.config).outValid := rfl
@[simp] theorem State.hardReset_out : s.hardReset.out = (State.resetWith s.config).out := rfl
@[simp] theorem State.hardReset_pixels : s.hardReset.pixels = (State.resetWith s.config).pixels := rfl
@[simp] theorem State.hardReset_errKind : s.hardReset.errKind = (State.resetWith s.config).errKind := rfl
@[simp] theorem State.hardReset_errCause : s.hardReset.errCause = (State.resetWith s.config).errCause := rfl
@[simp] theorem State.hardReset_errRow : s.hardReset.errRow = (State.resetWith s.config).errRow := rfl
@[simp] theorem State.hardReset_errSample : s.hardReset.errSample = (State.resetWith s.config).errSample := rfl
@[simp] theorem State.hardReset_config : s.hardReset.config = s.config := rfl
@[simp] theorem State.hardReset_pending : s.hardReset.pending = s.pending := rfl
@[simp] theorem State.hardReset_rdData : s.hardReset.rdData = (State.resetWith s.config).rdData := rfl
@[simp] theorem State.hardReset_inByte : s.hardReset.inByte = (State.resetWith s.config).inByte := rfl

end Sys2Proof.Machine
end

