-- ==== Sys2Proof/Laws/Memory.lean ====
section
/-! SUPPORT. The laws of a memory: what a read gives after a write, and that every memory operation keeps the
canonical form and the bound on addresses. -/

namespace Sys2Proof.Machine.Memory

variable {α : Type}

/-! ### The canonical form -/

@[simp] theorem wf_nil : wf ([] : List (Nat × α)) = true := rfl

@[simp] theorem wf_single (c : Nat × α) : wf [c] = true := rfl

@[simp] theorem wf_cons_cons (i j : Nat) (v w : α) (m : List (Nat × α)) :
    wf ((i, v) :: (j, w) :: m) = (decide (i < j) && wf ((j, w) :: m)) := rfl

theorem wf_tail {c : Nat × α} {m : List (Nat × α)} (h : wf (c :: m) = true) : wf m = true := by
  cases m with
  | nil => rfl
  | cons d m => simp [wf] at h; exact h.2

/-- The canonical form, as one order over the whole list. -/
theorem wf_iff_pairwise (m : List (Nat × α)) : wf m = true ↔ m.Pairwise (fun c d => c.1 < d.1) := by
  induction m with
  | nil => simp
  | cons c m ih =>
    cases m with
    | nil => simp
    | cons d m =>
      obtain ⟨i, v⟩ := c
      obtain ⟨j, w⟩ := d
      rw [wf_cons_cons, Bool.and_eq_true, decide_eq_true_eq, ih, List.pairwise_cons (a := (i, v))]
      constructor
      · rintro ⟨hij, hp⟩
        refine ⟨fun e he => ?_, hp⟩
        rcases List.mem_cons.1 he with rfl | he
        · exact hij
        · exact Nat.lt_trans hij ((List.pairwise_cons.1 hp).1 e he)
      · rintro ⟨hall, hp⟩
        exact ⟨hall _ (List.mem_cons_self ..), hp⟩

/-! ### Reads after writes -/

@[simp] theorem read?_nil (i : Nat) : read? ([] : List (Nat × α)) i = none := rfl

@[simp] theorem read?_cons (j i : Nat) (v : α) (m : List (Nat × α)) :
    read? ((j, v) :: m) i = if i = j then some v else read? m i := rfl

/-- A read after a write: the value written at its address, the old value at every other. -/
theorem read?_write (m : List (Nat × α)) (i k : Nat) (v : α) :
    read? (write m i v) k = if k = i then some v else read? m k := by
  induction m with
  | nil => simp [write]
  | cons c m ih =>
    obtain ⟨j, w⟩ := c
    simp only [write]
    split
    · simp
    · split
      · subst_vars; simp only [read?_cons]; split <;> rfl
      · simp only [read?_cons, ih]; split <;> split <;> first | rfl | omega

theorem read?_write_same (m : List (Nat × α)) (i : Nat) (v : α) : read? (write m i v) i = some v := by
  simp [read?_write]

theorem read?_write_other (m : List (Nat × α)) {i k : Nat} (v : α) (h : k ≠ i) :
    read? (write m i v) k = read? m k := by
  simp [read?_write, h]

theorem mem_write {m : List (Nat × α)} {i : Nat} {v : α} {c : Nat × α} (h : c ∈ write m i v) :
    c = (i, v) ∨ c ∈ m := by
  induction m with
  | nil => simpa [write] using h
  | cons d m ih =>
    obtain ⟨j, w⟩ := d
    simp only [write] at h
    split at h
    · simpa using h
    · split at h
      · rcases List.mem_cons.1 h with h | h
        · exact .inl h
        · exact .inr (List.mem_cons_of_mem _ h)
      · rcases List.mem_cons.1 h with h | h
        · exact .inr (h ▸ List.mem_cons_self ..)
        · rcases ih h with h | h
          · exact .inl h
          · exact .inr (List.mem_cons_of_mem _ h)

/-- A write keeps the canonical form. -/
theorem wf_write (m : List (Nat × α)) (i : Nat) (v : α) (h : wf m = true) : wf (write m i v) = true := by
  rw [wf_iff_pairwise] at *
  induction m with
  | nil => simp [write]
  | cons c m ih =>
    obtain ⟨j, w⟩ := c
    obtain ⟨hall, hp⟩ := List.pairwise_cons.1 h
    simp only [write]
    split
    · rename_i hij
      refine List.pairwise_cons.2 ⟨fun e he => ?_, h⟩
      rcases List.mem_cons.1 he with rfl | he
      · exact hij
      · exact Nat.lt_trans hij (hall e he)
    · split
      · subst_vars; exact List.pairwise_cons.2 ⟨hall, hp⟩
      · refine List.pairwise_cons.2 ⟨fun e he => ?_, ih hp⟩
        rcases mem_write he with rfl | he
        · simp only; omega
        · exact hall e he

/-! ### Bounds -/

theorem below_iff (m : List (Nat × α)) (n : Nat) : below m n = true ↔ ∀ c ∈ m, c.1 < n := by
  simp [below]

/-- A write below the bound keeps the bound. -/
theorem below_write {m : List (Nat × α)} {n i : Nat} {v : α} (h : below m n = true) (hi : i < n) :
    below (write m i v) n = true := by
  rw [below_iff] at *
  intro c hc
  rcases mem_write hc with rfl | hc
  · exact hi
  · exact h c hc

/-! ### Filling the first cells -/

theorem read?_cells (vs : List α) (k i : Nat) :
    read? (cells k vs) i = if k ≤ i then vs[i - k]? else none := by
  induction vs generalizing k with
  | nil => simp [cells]
  | cons v vs ih =>
    simp only [cells, read?_cons, ih]
    by_cases h : i = k
    · subst h; simp
    · by_cases hk : k ≤ i
      · have : k + 1 ≤ i := by omega
        simp only [h, hk, this, if_true, if_false]
        rw [show i - k = (i - (k + 1)) + 1 by omega, List.getElem?_cons_succ]
      · have : ¬ k + 1 ≤ i := by omega
        simp [h, hk, this]

theorem mem_cells {vs : List α} {k : Nat} {c : Nat × α} (h : c ∈ cells k vs) : k ≤ c.1 ∧ c.1 < k + vs.length := by
  induction vs generalizing k with
  | nil => simp [cells] at h
  | cons v vs ih =>
    rcases List.mem_cons.1 h with rfl | h
    · simp
    · have := ih h; simp only [List.length_cons]; omega

theorem read?_append (m₁ m₂ : List (Nat × α)) (i : Nat) :
    read? (m₁ ++ m₂) i = (read? m₁ i).or (read? m₂ i) := by
  induction m₁ with
  | nil => simp
  | cons c m ih =>
    obtain ⟨j, v⟩ := c
    simp only [List.cons_append, read?_cons, ih]
    split <;> simp

theorem read?_filter_ge (m : List (Nat × α)) (n i : Nat) :
    read? (m.filter (fun c => decide (n ≤ c.1))) i = if n ≤ i then read? m i else none := by
  induction m with
  | nil => simp
  | cons c m ih =>
    obtain ⟨j, v⟩ := c
    by_cases h : n ≤ j
    · rw [List.filter_cons_of_pos (by simpa using h)]
      simp only [read?_cons, ih]
      split <;> split <;> first | rfl | omega
    · rw [List.filter_cons_of_neg (by simpa using h)]
      simp only [read?_cons, ih]
      split
      · rw [if_neg (by omega)]
      · rfl

/-- A read after a fill: the filled values first, and everything at and above their number as before. -/
theorem read?_fill (m : List (Nat × α)) (vs : List α) (i : Nat) :
    read? (fill m vs) i = if i < vs.length then vs[i]? else read? m i := by
  simp only [fill, read?_append, read?_cells, read?_filter_ge, Nat.zero_le, if_true, Nat.sub_zero]
  by_cases h : i < vs.length
  · simp [h]
  · have : vs.length ≤ i := by omega
    simp [h, this]

/-- A fill keeps the canonical form. -/
theorem wf_fill (m : List (Nat × α)) (vs : List α) (h : wf m = true) : wf (fill m vs) = true := by
  rw [wf_iff_pairwise] at *
  refine List.pairwise_append.2 ⟨?_, h.filter _, ?_⟩
  · have : ∀ k, (cells k vs).Pairwise (fun c d => c.1 < d.1) := by
      induction vs with
      | nil => simp [cells]
      | cons v vs ih =>
        intro k
        refine List.pairwise_cons.2 ⟨fun e he => ?_, ih (k + 1)⟩
        have := mem_cells he
        simp only; omega
    exact this 0
  · intro c hc d hd
    have h₁ := mem_cells hc
    have h₂ := (List.mem_filter.1 hd).2
    simp only [decide_eq_true_eq] at h₂
    omega

/-- A fill of no more values than the bound keeps the bound. -/
theorem below_fill {m : List (Nat × α)} {vs : List α} {n : Nat} (h : below m n = true) (hn : vs.length ≤ n) :
    below (fill m vs) n = true := by
  rw [below_iff] at *
  intro c hc
  rcases List.mem_append.1 hc with hc | hc
  · have := mem_cells hc; omega
  · exact h c (List.mem_filter.1 hc).1

end Sys2Proof.Machine.Memory
end

