-- ==== Sys2Proof/Laws/Ops.lean ====
section
/-! SUPPORT. One lemma for each shared operation: when it gives a value, and which. -/

namespace Sys2Proof.Machine

/-! ### Computations -/

@[simp] theorem Comp.ok_bind {α β : Type} (a : α) (f : α → Comp β) : (Except.ok a >>= f : Comp β) = f a := rfl

@[simp] theorem Comp.error_bind {α β : Type} (e : Fault) (f : α → Comp β) :
    (Except.error e >>= f : Comp β) = .error e := rfl

@[simp] theorem Comp.pure_eq {α : Type} (a : α) : (pure a : Comp α) = .ok a := rfl

/-- A bind gives a value exactly when both its parts do. -/
theorem Comp.bind_ok {α β : Type} {x : Comp α} {f : α → Comp β} {b : β} :
    (x >>= f) = .ok b ↔ ∃ a, x = .ok a ∧ f a = .ok b := by
  cases x with
  | error e => simp
  | ok a => simp

@[simp] theorem toResult_ok (s : State) : toResult (.ok s) = .next s := rfl
@[simp] theorem toResult_error (f : Fault) : toResult (.error f) = .fault f := rfl

theorem toResult_next {x : Comp State} {t : State} : toResult x = .next t ↔ x = .ok t := by
  cases x with
  | error e => simp [toResult]
  | ok a => simp [toResult]

/-! ### Row buffers -/

theorem rowRead_ok {c : Config} {buf : List Host.Cell} {i : Int} {v : Byte} :
    rowRead c buf i = .ok v ↔ 0 ≤ i ∧ i < c.rowBufBytes ∧ Memory.read? buf i.toNat = some v := by
  unfold rowRead
  split
  · rename_i h
    cases hr : Memory.read? buf i.toNat with
    | none => simp
    | some w => simp [h.1, h.2]
  · rename_i h
    constructor
    · intro h'; cases h'
    · rintro ⟨h0, h1, -⟩; exact absurd ⟨h0, h1⟩ h

theorem rowRead_nat_ok {c : Config} {buf : List Host.Cell} {i : Nat} {v : Byte} :
    rowRead c buf (i : Int) = .ok v ↔ i < c.rowBufBytes ∧ Memory.read? buf i = some v := by
  simp [rowRead_ok]

theorem rowWrite_ok {c : Config} {buf b : List Host.Cell} {i : Nat} {v : Byte} :
    rowWrite c buf i v = .ok b ↔ i < c.rowBufBytes ∧ b = Memory.write buf i v := by
  unfold rowWrite
  split
  · rename_i h; simp [h, eq_comm]
  · rename_i h; simp [h]

theorem rowReadMany_ok {c : Config} {buf : List Host.Cell} {n k : Nat} {vs : List Byte} :
    rowReadMany c buf k n = .ok vs ↔
      vs.length = n ∧ ∀ i < n, k + i < c.rowBufBytes ∧ Memory.read? buf (k + i) = vs[i]? := by
  induction n generalizing k vs with
  | zero =>
    simp only [rowReadMany, Except.ok.injEq, List.length_eq_zero_iff]
    constructor
    · rintro rfl; exact ⟨rfl, fun i hi => absurd hi (Nat.not_lt_zero _)⟩
    · rintro ⟨rfl, -⟩; rfl
  | succ n ih =>
    simp only [rowReadMany, Comp.bind_ok, Comp.pure_eq, rowRead_nat_ok, ih, Except.ok.injEq]
    constructor
    · rintro ⟨v, ⟨hk, hv⟩, ws, ⟨hlen, hall⟩, rfl⟩
      refine ⟨by simp [hlen], fun i hi => ?_⟩
      cases i with
      | zero => exact ⟨hk, by simpa using hv⟩
      | succ i =>
        have := hall i (by omega)
        rw [show k + (i + 1) = k + 1 + i by omega]
        exact ⟨this.1, by simpa using this.2⟩
    · rintro ⟨hlen, hall⟩
      cases vs with
      | nil => simp at hlen
      | cons v ws =>
        refine ⟨v, by simpa using hall 0 (by omega), ws, ⟨by simpa using hlen, fun i hi => ?_⟩, rfl⟩
        have := hall (i + 1) (by omega)
        rw [show k + (i + 1) = k + 1 + i by omega] at this
        exact ⟨this.1, by simpa using this.2⟩

theorem rowCopy_ok {c : Config} {src dst d : List Host.Cell} {rb : Nat} :
    rowCopy c src dst rb = .ok d ↔
      ∃ vs : List Byte, vs.length = rb ∧ (∀ i < rb, i < c.rowBufBytes ∧ Memory.read? src i = vs[i]?) ∧
        d = Memory.fill dst vs := by
  simp only [rowCopy, Comp.bind_ok, Comp.pure_eq, rowReadMany_ok, Except.ok.injEq, Nat.zero_add]
  constructor
  · rintro ⟨vs, ⟨h1, h2⟩, rfl⟩; exact ⟨vs, h1, h2, rfl⟩
  · rintro ⟨vs, h1, h2, rfl⟩; exact ⟨vs, ⟨h1, h2⟩, rfl⟩

/-- A copy of a row that is written whole, inside the buffers, gives a value. -/
theorem rowCopy_exists {c : Config} {src : List Host.Cell} (dst : List Host.Cell) {rb : Nat}
    (hcap : rb ≤ c.rowBufBytes) (hfull : Memory.full src rb) : ∃ d, rowCopy c src dst rb = .ok d := by
  have h : ∀ n k, k + n ≤ rb → ∃ vs, rowReadMany c src k n = .ok vs := by
    intro n
    induction n with
    | zero => exact fun k _ => ⟨[], rfl⟩
    | succ n ih =>
      intro k hk
      obtain ⟨v, hv⟩ := Option.isSome_iff_exists.1 (hfull k (by omega))
      obtain ⟨vs, hvs⟩ := ih (k + 1) (by omega)
      refine ⟨v :: vs, ?_⟩
      rw [rowReadMany, (rowRead_nat_ok (c := c)).2 ⟨by omega, hv⟩, Comp.ok_bind, hvs]
      rfl
  obtain ⟨vs, hvs⟩ := h rb 0 (by omega)
  exact ⟨Memory.fill dst vs, by simp [rowCopy, hvs]⟩

/-- What the copied row reads as: the source below `rb`, the destination as before from there on. -/
theorem rowCopy_read {c : Config} {src dst d : List Host.Cell} {rb : Nat} (h : rowCopy c src dst rb = .ok d)
    (i : Nat) : Memory.read? d i = if i < rb then Memory.read? src i else Memory.read? dst i := by
  obtain ⟨vs, hlen, hall, rfl⟩ := rowCopy_ok.1 h
  rw [Memory.read?_fill, hlen]
  split
  · rename_i hi; exact (hall i hi).2.symm
  · rfl

/-! ### Palette -/

theorem palRead_ok {pal : List (Nat × Rgba16)} {k : Nat} {p : Rgba16} :
    palRead pal k = .ok p ↔ k < 256 ∧ Memory.read? pal k = some p := by
  unfold palRead
  split
  · rename_i h
    cases hr : Memory.read? pal k with
    | none => simp
    | some w => simp [h]
  · rename_i h; simp [h]

end Sys2Proof.Machine
end

