-- ==== Sys2Proof/Laws/Operands.lean ====
section
/-! SUPPORT. The operand forms: the neighbours of a byte, the bit cursor, and what reading samples does to the
state. -/

namespace Sys2Proof.Machine

/-! ### Neighbours -/

theorem lookBack_ok {c : Config} {buf : List Host.Cell} {fbpp i : Nat} {v : Byte} :
    lookBack c buf fbpp i = .ok v ↔
      (fbpp ≤ i ∧ i - fbpp < c.rowBufBytes ∧ Memory.read? buf (i - fbpp) = some v) ∨ (i < fbpp ∧ v = 0) := by
  unfold lookBack
  split
  · rename_i h
    rw [rowRead_nat_ok]
    constructor
    · exact fun hr => .inl ⟨h, hr⟩
    · rintro (⟨-, hr⟩ | ⟨hlt, -⟩)
      · exact hr
      · exact absurd h (Nat.not_le.2 hlt)
  · rename_i h
    constructor
    · intro hv; cases hv; exact .inr ⟨Nat.not_le.1 h, rfl⟩
    · rintro (⟨hle, -⟩ | ⟨-, rfl⟩)
      · exact absurd hle h
      · rfl

theorem neighbours_ok {s : State} {fbpp i : Nat} {a b c : Byte} :
    s.neighbours fbpp i = .ok (a, b, c) ↔
      lookBack s.config s.cur fbpp i = .ok a ∧ rowRead s.config s.prior i = .ok b ∧
        lookBack s.config s.prior fbpp i = .ok c := by
  simp only [State.neighbours, Comp.bind_ok, Comp.pure_eq, Except.ok.injEq, Prod.mk.injEq]
  constructor
  · rintro ⟨a', ha, b', hb, c', hc, rfl, rfl, rfl⟩; exact ⟨ha, hb, hc⟩
  · rintro ⟨ha, hb, hc⟩; exact ⟨a, ha, b, hb, c, hc, rfl, rfl, rfl⟩

/-! ### The bit cursor -/

@[simp] theorem advance_zero (s : State) : s.advance 0 = s := by
  cases s; simp [State.advance]

theorem advance_advance (s : State) (m n : Nat) : (s.advance m).advance n = s.advance (m + n) := by
  simp [State.advance, BitVec.add_assoc, BitVec.ofNat_add]

theorem advance_cursor_toNat (s : State) {n : Nat} (h : s.cursor.toNat + n < 2 ^ 64) :
    (s.advance n).cursor.toNat = s.cursor.toNat + n := by
  simp [State.advance, BitVec.toNat_add]; omega

/-! ### Samples -/

/-- Reading a sample changes nothing but the cursor. -/
theorem readSample_state {s t : State} {d : Depth} {rb : Nat} {v : Chan} (h : s.readSample d rb = .ok (v, t)) :
    t = s.advance d.bits := by
  simp only [State.readSample, Comp.bind_ok, Comp.pure_eq, Except.ok.injEq, Prod.mk.injEq] at h
  obtain ⟨_, _, _, h⟩ := h
  exact h.symm

/-- Reading `n` samples gives `n` values and changes nothing but the cursor. -/
theorem readSamples_state {s t : State} {d : Depth} {rb n : Nat} {vs : List Chan}
    (h : s.readSamples d rb n = .ok (vs, t)) : vs.length = n ∧ t = s.advance (n * d.bits) := by
  induction n generalizing s t vs with
  | zero =>
    simp only [State.readSamples, Except.ok.injEq, Prod.mk.injEq] at h
    obtain ⟨rfl, rfl⟩ := h
    simp
  | succ n ih =>
    simp only [State.readSamples, Comp.bind_ok, Comp.pure_eq, Except.ok.injEq, Prod.mk.injEq, Prod.exists] at h
    obtain ⟨v, s1, h1, ws, s2, h2, rfl, rfl⟩ := h
    obtain ⟨hlen, rfl⟩ := ih h2
    rw [readSample_state h1, advance_advance]
    refine ⟨by simp [hlen], ?_⟩
    congr 1
    rw [Nat.succ_mul, Nat.add_comm]

end Sys2Proof.Machine
end

