-- ==== Sys2Proof/Laws/Transactions.lean ====
section
/-! SUPPORT. The shared parts of the transactions: the dispatches, the gates, and what each part can do when it
gives a next state. -/

namespace Sys2Proof.Machine

/-! ### The dispatches -/

/-- Running a mode's instruction is the mode at work. -/
@[simp] theorem runMode_eq (m : Mode) (s : State) : runMode m s = modeInstr m s := by cases m <;> rfl

/-- Each of the 15 mode instructions is its mode at work. -/
theorem exec_mode (m : Mode) (s : State) : exec m.instr s = modeInstr m s := by cases m <;> rfl

theorem runFormat_mode {s : State} {m : Mode} (hm : s.mode? = some m) (hi : s.cfgInterlace = 0) :
    runFormat s = modeInstr m s := by simp [runFormat, hm, hi]

theorem extractNext_mode {s : State} {m : Mode} (hm : s.mode? = some m) : extractNext s = modeInstr m s := by
  simp [extractNext, hm]

theorem modeInstr_run {s : State} (m : Mode) (h : s.st = .run) : modeInstr m s = toResult (s.extract m) := by
  simp [modeInstr, h]

theorem modeInstr_start {s : State} (m : Mode) (h : s.st = .idle ∨ s.st = .done) :
    modeInstr m s = .next (s.startMode m) := by
  rcases h with h | h <;> simp [modeInstr, h]

theorem exec_start {s : State} (ig : BitVec 28) (h : s.st = .idle ∨ s.st = .done) :
    exec (.start ig) s = runFormat s := by
  rcases h with h | h <;> simp [exec, execStart, h]

theorem exec_fmtIllegal_start {s : State} (d c i : Byte) (h : s.st = .idle ∨ s.st = .done) :
    exec (.fmtIllegal d c i) s = .next (s.startIllegal d c) := by
  rcases h with h | h <;> simp [exec, execFmtIllegal, h]

/-- Running a byte's filter instruction is running what the byte decodes to. -/
theorem runFilter_eq (x : Byte) (s : State) : runFilter x s = exec (decodeFb x) s := by
  unfold runFilter decodeFb
  cases h : decodeFilter x with
  | none => rfl
  | some f => cases f <;> rfl

theorem decodeFilter_codeOf (f : FilterType) : decodeFilter (codeOf f) = some f := by cases f <;> rfl

/-- A legal filter-type byte is the code of a filter type. -/
theorem exists_codeOf {x : Byte} (h : x.toNat ≤ 4) : ∃ f, x = codeOf f := by
  have hx : x.toNat = 0 ∨ x.toNat = 1 ∨ x.toNat = 2 ∨ x.toNat = 3 ∨ x.toNat = 4 := by omega
  rcases hx with h | h | h | h | h
  · exact ⟨.none, BitVec.eq_of_toNat_eq h⟩
  · exact ⟨.sub, BitVec.eq_of_toNat_eq h⟩
  · exact ⟨.up, BitVec.eq_of_toNat_eq h⟩
  · exact ⟨.avg, BitVec.eq_of_toNat_eq h⟩
  · exact ⟨.paeth, BitVec.eq_of_toNat_eq h⟩

/-- Each of the five filter instructions is its rule at work. -/
theorem exec_filter (f : FilterType) (s : State) : exec f.instr s = filterInstr (codeOf f) (reconOf f) s := by
  cases f <;> rfl

/-! ### The events -/

/-- The bus access made of a T word carries that word. -/
theorem ofWord_word (w : TWord) (c : Config) : (BusAccess.ofWord w c).word c = .ok w := by
  have := (TWord.offset w).isLt
  have h : c.baseAddr + (TWord.offset w).toNat < c.baseAddr + 256 := by omega
  simp [BusAccess.word, BusAccess.ofWord, h, mk_fields]

/-! ### START -/

theorem legalDim_iff (w : Word) : legalDim w = true ↔ 1 ≤ w.toNat ∧ w.toNat ≤ 2 ^ 31 - 1 := by
  unfold legalDim; simp

/-- START in a mode, as its three outcomes. -/
theorem startMode_eq (s : State) (m : Mode) :
    s.startMode m =
      if !(legalDim s.cfgWidth && legalDim s.cfgHeight) then refusedStart s 2 4
      else if s.config.rowBufBytes < m.rowBytes s.cfgWidth then refusedStart s 5 0
      else startedRun s (Memory.fill s.prior (List.replicate (m.rowBytes s.cfgWidth) 0)) := rfl

theorem startIllegal_eq (s : State) (d c : Byte) : s.startIllegal d c = refusedStart s 2 (formatCause d c) := rfl

/-! ### The gates -/

theorem idleWrite_idle {cause : BitVec 4} {f : State → State} {s : State} (h : s.st = .idle ∨ s.st = .done) :
    idleWrite cause f s = .next (f s) := by
  rcases h with h | h <;> simp [idleWrite, h]

theorem idleWrite_run {cause : BitVec 4} {f : State → State} {s : State} (h : s.st = .run) :
    idleWrite cause f s = .next (s.protocolError cause) := by
  simp [idleWrite, h]

theorem idleWrite_error {cause : BitVec 4} {f : State → State} {s : State} (h : s.st = .error) :
    idleWrite cause f s = .next s := by
  simp [idleWrite, h]

theorem inDataGate_run {k : State → Result} {s : State} (hst : s.st = .run) (hrow : s.row ≠ s.cfgHeight)
    (hp : s.pend = false) : inDataGate k s = k s := by
  simp [inDataGate, hst, hrow, hp]

/-- A stream byte that passes the gate is the work of the filter instruction in force. -/
theorem exec_inData_run {s : State} (x : Byte) (ig : BitVec 24) (hst : s.st = .run) (hrow : s.row ≠ s.cfgHeight)
    (hp : s.pend = false) : exec (.wrInData x ig) s = exec (decodeFb (s.filterCode x)) { s with inByte := x } := by
  rw [← runFilter_eq]
  show execWrInData x ig s = _
  rw [execWrInData, inDataGate_run hst hrow hp]

/-- What a stream byte can lead to: PE(3), nothing, PE(4), or the byte's own processing. -/
theorem inDataGate_next {k : State → Result} {s t : State} (h : inDataGate k s = .next t) :
    (s.st = .idle ∧ t = s.protocolError 3) ∨ t = s ∨
      (s.st = .run ∧ s.pend = true ∧ s.row ≠ s.cfgHeight ∧ t = s.protocolError 4) ∨
      (s.st = .run ∧ s.pend = false ∧ s.row ≠ s.cfgHeight ∧ k s = .next t) := by
  unfold inDataGate at h
  split at h
  · rename_i hst; exact .inl ⟨hst, by simpa using h.symm⟩
  · rename_i hst
    split at h
    · exact .inr (.inl (by simpa using h.symm))
    · rename_i hrow
      split at h
      · rename_i hp; exact .inr (.inr (.inl ⟨hst, hp, hrow, by simpa using h.symm⟩))
      · rename_i hp; exact .inr (.inr (.inr ⟨hst, by simpa using hp, hrow, h⟩))
  · exact .inr (.inl (by simpa using h.symm))
  · exact .inr (.inl (by simpa using h.symm))

/-- What a configuration or palette write can lead to. -/
theorem idleWrite_next {cause : BitVec 4} {f : State → State} {s t : State} (h : idleWrite cause f s = .next t) :
    ((s.st = .idle ∨ s.st = .done) ∧ t = f s) ∨ (s.st = .run ∧ t = s.protocolError cause) ∨
      (s.st = .error ∧ t = s) := by
  unfold idleWrite at h
  split at h <;> rename_i hst <;> simp_all

/-! ### POP -/

/-- A POP inside a scanline goes on to the next pixel. -/
theorem popPixel_more {s : State} (h : s.xcol.toNat + 1 < s.cfgWidth.toNat) :
    popPixel s =
      extractNext { s with pixels := s.pixels + 1, outValid := false, out := Rgba16.zero, xcol := s.xcol + 1 } := by
  simp only [popPixel, State.clearOut, h, if_true]

/-- A POP of the last pixel of a scanline ends the draining, and that of the last scanline the decode. -/
theorem popPixel_last {s : State} (h : ¬ s.xcol.toNat + 1 < s.cfgWidth.toNat) :
    popPixel s =
      .next
        { s with
          pixels := s.pixels + 1, outValid := false, out := Rgba16.zero, pend := false, xcol := 0,
          st := if s.row = s.cfgHeight then .done else s.st } := by
  simp only [popPixel, State.clearOut, h, if_false]
  by_cases hr : s.row = s.cfgHeight
  · simp only [hr, if_true]
  · simp only [hr, if_false]

/-! ### Extraction -/

/-- What an extraction can lead to: the pixel in the output register, with ALIGN after the last of a scanline,
or PaletteIndexError. The cursor has advanced past the pixel's samples in both. -/
theorem extract_next {s t : State} {m : Mode} (h : s.extract m = .ok t) :
    ∃ ss, s.readSamples m.depth (m.rowBytes s.cfgWidth) m.spp = .ok (ss, s.advance m.bitsPP) ∧
      ((∃ px, (s.advance m.bitsPP).resolve m.ctype m.depth ss = .ok (some px) ∧
          t = if s.lastColumn then ((s.advance m.bitsPP).setOut px).align else (s.advance m.bitsPP).setOut px) ∨
        ((s.advance m.bitsPP).resolve m.ctype m.depth ss = .ok none ∧
          t = (s.advance m.bitsPP).raise .paletteIndex 0 (s.row - 1) (BitVec.ofInt 64 s.rasterPos))) := by
  simp only [State.extract, Comp.bind_ok, Prod.exists] at h
  obtain ⟨ss, s1, h1, r, hr, ht⟩ := h
  obtain ⟨-, rfl⟩ := readSamples_state h1
  refine ⟨ss, h1, ?_⟩
  cases r with
  | none => exact .inr ⟨hr, by simpa [Mode.bitsPP] using ht.symm⟩
  | some px =>
    refine .inl ⟨px, hr, ?_⟩
    exact (Except.ok.inj ht).symm

/-! ### Bytes and rows -/

/-- What the store of a data byte does: the byte at `col`, and `col` incremented. -/
theorem reconstruct_ok {s t : State} {m : Mode} {recon : Byte → Byte → Byte → Byte → Byte} {x : Byte} :
    s.reconstruct m recon x = .ok t ↔
      ∃ a b c, s.neighbours m.fbpp s.col.toNat = .ok (a, b, c) ∧ s.col.toNat < s.config.rowBufBytes ∧
        t = { s with cur := Memory.write s.cur s.col.toNat (recon x a b c), col := s.col + 1 } := by
  simp only [State.reconstruct, Comp.bind_ok, Comp.pure_eq, Except.ok.injEq, Prod.exists, rowWrite_ok]
  constructor
  · rintro ⟨a, b, c, hn, cur, ⟨hcap, rfl⟩, rfl⟩; exact ⟨a, b, c, hn, hcap, rfl⟩
  · rintro ⟨a, b, c, hn, hcap, rfl⟩; exact ⟨a, b, c, hn, _, ⟨hcap, rfl⟩, rfl⟩

/-- What a row's completion can lead to: the extraction of its first pixel. -/
theorem completeRow_eq {s : State} {rb : Nat} {d : List Host.Cell} (h : rowCopy s.config s.cur s.prior rb = .ok d) :
    completeRow rb s =
      extractNext { s with prior := d, row := s.row + 1, phase := .filt, col := 0, pend := true, xcol := 0 } := by
  simp [completeRow, h]

/-- A legal filter-type byte: latched, and data follows. -/
theorem filterByte_legal (s : State) {x : Byte} (h : x.toNat ≤ 4) :
    s.filterByte x = { s with ftype := x, phase := .data, col := 0 } := by
  simp [State.filterByte, Nat.not_lt.2 h]

/-- An illegal filter-type byte: latched, and FormatError cause 5. -/
theorem filterByte_illegal (s : State) {x : Byte} (h : 4 < x.toNat) :
    s.filterByte x = { s with ftype := x }.raise .format 5 s.row 0 := by
  simp [State.filterByte, h]

end Sys2Proof.Machine
end

