-- ==== Sys2Proof/Laws/Extraction.lean ====
section
/-! SUPPORT. ExtractNext: the samples it reads, as the reference decode names them, and its two outcomes. -/

namespace Sys2Proof.Machine

theorem bitsPP_pos (m : Mode) : 1 ≤ m.bitsPP ∧ m.bitsPP ≤ 64 := by cases m <;> decide

/-- A byte of a scanline that is held whole. -/
theorem rowRead_full {c : Config} {s : State} {rb i : Nat} (hfull : Memory.full s.prior rb)
    (hcap : rb ≤ c.rowBufBytes) (hi : i < rb) : rowRead c s.prior (i : Int) = .ok (s.rowByte i) := by
  obtain ⟨v, hv⟩ := Option.isSome_iff_exists.1 (hfull i hi)
  rw [rowRead_nat_ok, State.rowByte, hv]
  exact ⟨by omega, rfl⟩

/-- The sample at bit `q` of the draining scanline, when `q` is a multiple of the depth. -/
theorem sampleValue_eq {s : State} {d : Depth} {rb q : Nat} (hrow : 1 ≤ s.row.toNat)
    (hc : s.cursor.toNat = (s.row.toNat - 1) * rb * 8 + q) (hdvd : d.bits ∣ q) (hq : q + d.bits ≤ rb * 8)
    (hcap : rb ≤ s.config.rowBufBytes) (hfull : Memory.full s.prior rb) :
    s.sampleValue d (s.sampleIndex rb) = .ok (sampleAt s.rowByte d q) := by
  have hidx : s.sampleIndex rb = ((q / 8 : Nat) : Int) := by
    obtain ⟨r, hr⟩ : ∃ r, s.row.toNat = r + 1 := ⟨s.row.toNat - 1, by omega⟩
    rw [hr] at hc; simp only [Nat.add_sub_cancel] at hc
    unfold State.sampleIndex State.byteIndex
    rw [hc, hr]
    have h1 : (r * rb * 8 + q) / 8 = r * rb + q / 8 := by omega
    rw [h1]; push_cast; ring
  have hoff : s.bitOffset = q % 8 := by unfold State.bitOffset; omega
  rw [hidx]
  have hread : ∀ i, i < rb → rowRead s.config s.prior (i : Int) = .ok (s.rowByte i) :=
    fun i hi => rowRead_full hfull hcap hi
  obtain ⟨k, rfl⟩ := hdvd
  have packed : ∀ n, n = 1 ∨ n = 2 ∨ n = 4 → d.bits = n →
      s.packedRead n ((d.bits * k / 8 : Nat) : Int) =
        .ok (BitVec.ofNat 16
          ((s.rowByte (d.bits * k / 8)).toNat / 2 ^ (8 - d.bits * k % 8 - d.bits) % 2 ^ d.bits)) := by
    intro n hn hd
    subst hd
    have h8 : d.bits * k / 8 < rb := by omega
    rw [State.packedRead, hread _ h8, Comp.ok_bind, hoff]
    have h9 : d.bits * k % 8 + d.bits ≤ 8 := by rcases hn with h | h | h <;> rw [h] <;> omega
    rw [if_pos h9, packedSample, Nat.shiftRight_eq_div_pow, Nat.and_two_pow_sub_one_eq_mod]
  cases d
  case d1 => exact packed 1 (by simp) rfl
  case d2 => exact packed 2 (by simp) rfl
  case d4 => exact packed 4 (by simp) rfl
  case d8 =>
    simp only [Depth.bits] at *
    show (do let b ← rowRead s.config s.prior _; return b.setWidth 16 : Comp Chan) = _
    rw [hread _ (by omega)]
    have h8 : 8 * k % 8 = 0 := by omega
    simp only [Comp.ok_bind, Comp.pure_eq, sampleAt, h8, Depth.bits]
    congr 1
    apply BitVec.eq_of_toNat_eq
    have := (s.rowByte (8 * k / 8)).isLt
    simp only [BitVec.toNat_setWidth, BitVec.toNat_ofNat]; omega
  case d16 =>
    simp only [Depth.bits] at *
    show (do
      let hi ← rowRead s.config s.prior _
      let lo ← rowRead s.config s.prior _
      return (hi ++ lo : BitVec 16) : Comp Chan) = _
    rw [hread _ (by omega),
      show (((16 * k / 8 : Nat) : Int) + 1) = ((16 * k / 8 + 1 : Nat) : Int) by push_cast; rfl, hread _ (by omega)]
    rfl

/-- `n` samples from bit `q` of the draining scanline on, and the cursor past them. -/
theorem readSamples_eq {d : Depth} {rb : Nat} (n : Nat) {s : State} {q : Nat} (hrow : 1 ≤ s.row.toNat)
    (hc : s.cursor.toNat = (s.row.toNat - 1) * rb * 8 + q) (hdvd : d.bits ∣ q) (hq : q + n * d.bits ≤ rb * 8)
    (hcap : rb ≤ s.config.rowBufBytes) (hfull : Memory.full s.prior rb)
    (h64 : s.cursor.toNat + n * d.bits < 2 ^ 64) :
    s.readSamples d rb n =
      .ok ((List.range n).map (fun k => sampleAt s.rowByte d (q + k * d.bits)), s.advance (n * d.bits)) := by
  induction n generalizing s q with
  | zero => simp [State.readSamples]
  | succ n ih =>
    have hmul : (n + 1) * d.bits = n * d.bits + d.bits := by ring
    rw [hmul] at hq h64
    have h1 : s.readSample d rb = .ok (sampleAt s.rowByte d q, s.advance d.bits) := by
      rw [State.readSample, sampleValue_eq hrow hc hdvd (by omega) hcap hfull]; rfl
    have hc1 : (s.advance d.bits).cursor.toNat = s.cursor.toNat + d.bits := advance_cursor_toNat s (by omega)
    have h2 := ih (s := s.advance d.bits) (q := q + d.bits) hrow
      (by rw [hc1, hc]; show _ = (s.row.toNat - 1) * rb * 8 + _; omega) (Dvd.dvd.add hdvd (dvd_refl _)) (by omega)
      hcap hfull (by rw [hc1]; omega)
    rw [State.readSamples, h1, Comp.ok_bind]
    dsimp only
    rw [h2, Comp.ok_bind]
    dsimp only
    rw [Comp.pure_eq, advance_advance, List.range_succ_eq_map, List.map_cons, List.map_map]
    congr 2
    · congr 1
      · simp
      · apply List.map_congr_left
        intro k _
        show sampleAt s.rowByte d _ = sampleAt s.rowByte d _
        congr 1; simp; ring
    · congr 1; rw [hmul]; omega

/-- Every pixel of a scanline lies in its RB bytes. -/
theorem pixel_fits (m : Mode) (w : Word) (x : Nat) (h : x < w.toNat) :
    x * m.bitsPP + m.bitsPP ≤ m.rowBytes w * 8 := by
  have : (x + 1) * m.bitsPP ≤ w.toNat * m.bitsPP := Nat.mul_le_mul_right _ h
  rw [Nat.add_mul, Nat.one_mul] at this
  unfold Mode.rowBytes; rw [Nat.mul_comm m.bitsPP]; omega

/-- The pixel to extract ends inside its scanline. -/
theorem cursor_bound {s : State} {m : Mode} (h : s.ExtractionDue m) :
    s.cursor.toNat + m.bitsPP ≤ s.row.toNat * m.rowBytes s.cfgWidth * 8 := by
  have h1 := pixel_fits m s.cfgWidth _ h.xcol_lt
  have h2 := h.cursor
  have h3 := h.row_pos
  obtain ⟨r, hr⟩ : ∃ r, s.row.toNat = r + 1 := ⟨s.row.toNat - 1, by omega⟩
  rw [hr] at h2 ⊢
  simp only [Nat.add_sub_cancel] at h2
  have : (r + 1) * m.rowBytes s.cfgWidth * 8 = r * m.rowBytes s.cfgWidth * 8 + m.rowBytes s.cfgWidth * 8 := by
    ring
  omega

/-- The samples of the pixel to extract. -/
theorem readSamples_due {s : State} {m : Mode} (h : s.ExtractionDue m) :
    s.readSamples m.depth (m.rowBytes s.cfgWidth) m.spp =
      .ok (samplesAt s.rowByte m s.xcol.toNat, s.advance m.bitsPP) := by
  have hb : m.spp * m.depth.bits = m.bitsPP := rfl
  have h1 := cursor_bound h
  have h2 := h.no_wrap
  have := readSamples_eq (d := m.depth) (rb := m.rowBytes s.cfgWidth) m.spp (s := s) (q := s.xcol.toNat * m.bitsPP)
    h.row_pos h.cursor (by rw [← hb]; exact Dvd.dvd.mul_left (Dvd.intro_left _ rfl) _)
    (by rw [hb]; exact pixel_fits m _ _ h.xcol_lt) h.capacity h.prior_full (by rw [hb]; omega)
  rw [this, hb]; rfl

/-- What the pixel's samples resolve to. -/
theorem resolve_due {s : State} {m : Mode} (h : s.ExtractionDue m) :
    (s.advance m.bitsPP).resolve m.ctype m.depth (samplesAt s.rowByte m s.xcol.toNat) =
      .ok (s.pixelAt m s.xcol.toNat) := by
  unfold State.pixelAt pixelOf State.resolve
  cases m.ctype <;> try rfl
  simp only [resolveIndexed]
  show (if s.palLen ≤ _ then _ else _) = _
  split
  · rename_i hle
    rw [if_neg (by omega)]
  · rename_i hlt
    rw [if_pos (by omega)]
    obtain ⟨p, hp⟩ := Option.isSome_iff_exists.1 (h.pal_full _ (Nat.not_le.1 hlt))
    have h2 := h.palLen_le
    rw [hp]
    show (do let p ← palRead s.pal _; return some p : Comp (Option Rgba16)) = _
    rw [palRead_ok.2 ⟨by omega, hp⟩]; rfl

/-- Where the cursor stands after the pixel. -/
theorem cursor_due {s : State} {m : Mode} (h : s.ExtractionDue m) :
    (if s.lastColumn then (s.advance m.bitsPP).align.cursor else (s.advance m.bitsPP).cursor).toNat =
      s.cursorAfter m := by
  have h1 := cursor_bound h
  have h2 := h.no_wrap
  have h3 := h.cursor
  have h4 : (s.advance m.bitsPP).cursor.toNat = s.cursor.toNat + m.bitsPP := advance_cursor_toNat s (by omega)
  unfold State.cursorAfter State.lastColumn
  by_cases hl : s.xcol.toNat + 1 = s.cfgWidth.toNat
  · simp only [hl, decide_true, if_true]
    have hw : s.xcol.toNat * m.bitsPP + m.bitsPP = m.bitsPP * s.cfgWidth.toNat := by rw [← hl]; ring
    obtain ⟨r, hr⟩ : ∃ r, s.row.toNat = r + 1 := ⟨s.row.toNat - 1, by have := h.row_pos; omega⟩
    rw [hr] at h1 h2 h3 ⊢
    rw [Nat.add_sub_cancel] at h3
    have e : (r + 1) * m.rowBytes s.cfgWidth * 8 = r * m.rowBytes s.cfgWidth * 8 + m.rowBytes s.cfgWidth * 8 := by
      ring
    have hrb : m.rowBytes s.cfgWidth = (m.bitsPP * s.cfgWidth.toNat + 7) / 8 := rfl
    rw [State.align, advance_cursor_toNat]
    · rw [h4, State.bitOffset, h4]; omega
    · rw [h4, State.bitOffset, h4]; omega
  · simp only [hl, decide_false, Bool.false_eq_true, if_false]
    rw [h4, h3]; ring

/-- An extraction whose index is in range: the pixel is held. -/
theorem extract_due_some {s : State} {m : Mode} {p : Rgba16} (h : s.ExtractionDue m)
    (hp : s.pixelAt m s.xcol.toNat = some p) :
    ∃ k : Wide, s.extract m = .ok { s with out := p, outValid := true, cursor := k } ∧ k.toNat = s.cursorAfter m := by
  refine ⟨_, ?_, cursor_due h⟩
  rw [State.extract, readSamples_due h, Comp.ok_bind]
  dsimp only
  rw [resolve_due h, hp, Comp.ok_bind]
  show Except.ok (if s.lastColumn then _ else _) = _
  cases s.lastColumn <;> rfl

/-- An extraction whose palette index is out of range: PaletteIndexError. -/
theorem extract_due_none {s : State} {m : Mode} (h : s.ExtractionDue m)
    (hp : s.pixelAt m s.xcol.toNat = none) :
    s.extract m =
      .ok ((s.advance m.bitsPP).raise .paletteIndex 0 (s.row - 1) (BitVec.ofInt 64 s.rasterPos)) := by
  rw [State.extract, readSamples_due h, Comp.ok_bind]
  dsimp only
  rw [resolve_due h, hp, Comp.ok_bind]; rfl

end Sys2Proof.Machine
end

