-- ==== Sys2Proof/Laws/Invariant.lean ====
section
/-! SUPPORT. Small facts about the invariant: the mode it runs in, what it says outside RUN, and that the model's
own fields are no part of it. -/

namespace Sys2Proof.Machine

/-- The mode of the invariant is the one that FORMAT selects. -/
theorem State.RunInv.mode_unique {s : State} {m m' : Mode} (r : s.RunInv m) (h : s.mode? = some m') : m = m' :=
  Option.some.inj (r.mode.symm.trans h)

/-- Outside RUN no pixel is held. -/
theorem State.Inv.outValid_of_not_run {s : State} (h : s.Inv) (hst : s.st ≠ .run) : s.outValid = false := by
  cases ho : s.outValid with
  | false => rfl
  | true => exact absurd (h.out_held ho).1 hst

/-- While no scanline drains, no pixel is held. -/
theorem State.Inv.outValid_of_filling {s : State} (h : s.Inv) (hp : s.pend = false) : s.outValid = false := by
  cases ho : s.outValid with
  | false => rfl
  | true => exact absurd (h.out_held ho).2 (by simp [hp])

/-- A filling scanline is not the last: the row count is below the height. -/
theorem State.RunInv.row_ne {s : State} {m : Mode} (r : s.RunInv m) (hp : s.pend = false) : s.row ≠ s.cfgHeight :=
  fun h => absurd (r.filling hp).1 (by rw [h]; exact Nat.lt_irrefl _)

/-- No cursor of a decode wraps. -/
theorem State.RunInv.no_wrap {s : State} {m : Mode} (r : s.RunInv m) (h : s.Inv) {n : Nat}
    (hn : n ≤ s.cfgHeight.toNat) : n * m.rowBytes s.cfgWidth * 8 < 2 ^ 64 := by
  have h1 := h.config.2
  have h2 := r.capacity
  have h3 := (legalDim_iff _).1 r.height
  have : n * m.rowBytes s.cfgWidth ≤ (2 ^ 31 - 1) * 2 ^ 30 := Nat.mul_le_mul (by omega) (by omega)
  omega

/-- The invariant looks at neither the queue nor the value that was read. -/
theorem State.Inv.of_queue {s : State} (h : s.Inv) (p : List HostEvent) (r : Word) :
    ({ s with pending := p, rdData := r } : State).Inv where
  config := h.config
  pal_wf := h.pal_wf
  prior_wf := h.prior_wf
  cur_wf := h.cur_wf
  pal_below := h.pal_below
  prior_below := h.prior_below
  cur_below := h.cur_below
  palLen_le := h.palLen_le
  pal_full := h.pal_full
  filt_col := h.filt_col
  out_held := h.out_held
  out_clear := h.out_clear
  pend_active := h.pend_active
  no_error := h.no_error
  error_code := h.error_code
  idle_clean := fun hs => by
    have := h.idle_clean hs
    rw [← this]
    rfl
  running := fun hs => by
    obtain ⟨m, hm⟩ := h.running hs
    exact ⟨m, ⟨hm.mode, hm.interlace, hm.width, hm.height, hm.capacity, hm.row_le, hm.col_lt, hm.prior_full,
      hm.cur_full, hm.ftype_legal, hm.filling, hm.draining⟩⟩

end Sys2Proof.Machine
end

