-- ==== Sys2Proof/Laws/PerInstr.lean ====
section
/-! SUPPORT. One fact about the encoding of every instruction: a well-formed instruction of format T is encoded
at a word-aligned offset (30_encoding.md R101), and those of the other formats are no transactions. -/

namespace Sys2Proof.Laws.EncodesAligned

/-- A T word that encodes the instruction has OFFSET[1:0] = 00. -/
def Statement (i : Instr) : Prop :=
  i.wellFormed = true → ∀ w, encode i = .t w → aligned (TWord.offset w) = true

/-- An instruction encoded at a fixed aligned offset. -/
theorem of_mk {i : Instr} {wr : Bool} {off : Byte} {data : Word} (he : encode i = .t (TWord.mk wr off data))
    (ha : i.wellFormed = true → aligned off = true) : Statement i := by
  intro hw w h
  rw [he] at h
  cases h
  rw [offset_mk]
  exact ha hw

/-- An instruction of the formats FB and FMT. -/
theorem of_not_t {i : Instr} (he : ∀ w, encode i ≠ .t w) : Statement i := fun _ w h => absurd h (he w)

theorem nop (ignored : BitVec 28) : Statement (.nop ignored) :=
  of_mk rfl fun _ => rfl
theorem start (ignored : BitVec 28) : Statement (.start ignored) :=
  of_mk rfl fun _ => rfl
theorem abort (ignored : BitVec 28) : Statement (.abort ignored) :=
  of_mk rfl fun _ => rfl
theorem eos (ignored : BitVec 28) : Statement (.eos ignored) :=
  of_mk rfl fun _ => rfl
theorem palClear (ignored : BitVec 28) : Statement (.palClear ignored) :=
  of_mk rfl fun _ => rfl
theorem pop (ignored : BitVec 28) : Statement (.pop ignored) :=
  of_mk rfl fun _ => rfl
theorem cmdReserved (cmd : BitVec 4) (ignored : BitVec 28) : Statement (.cmdReserved cmd ignored) :=
  of_mk rfl fun _ => rfl
theorem wrWidth (width : Word) : Statement (.wrWidth width) :=
  of_mk rfl fun _ => rfl
theorem wrHeight (height : Word) : Statement (.wrHeight height) :=
  of_mk rfl fun _ => rfl
theorem wrFormat (depth ctype interlace ignored : Byte) : Statement (.wrFormat depth ctype interlace ignored) :=
  of_mk rfl fun _ => rfl
theorem wrPalData (r8 g8 b8 ignored : Byte) : Statement (.wrPalData r8 g8 b8 ignored) :=
  of_mk rfl fun _ => rfl
theorem wrInData (byte : Byte) (ignored : BitVec 24) : Statement (.wrInData byte ignored) :=
  of_mk rfl fun _ => rfl
theorem wrIgnored (offset : Byte) (data : Word) : Statement (.wrIgnored offset data) :=
  of_mk rfl fun h => (Bool.and_eq_true_iff.1 h).1
theorem rd (offset : Byte) : Statement (.rd offset) :=
  of_mk rfl fun h => h
theorem filterNone : Statement .filterNone :=
  of_not_t fun _ => by simp [encode]
theorem filterSub : Statement .filterSub :=
  of_not_t fun _ => by simp [encode]
theorem filterUp : Statement .filterUp :=
  of_not_t fun _ => by simp [encode]
theorem filterAvg : Statement .filterAvg :=
  of_not_t fun _ => by simp [encode]
theorem filterPaeth : Statement .filterPaeth :=
  of_not_t fun _ => by simp [encode]
theorem filterIllegal (ftype : Byte) : Statement (.filterIllegal ftype) :=
  of_not_t fun _ => by simp [encode]
theorem g1 : Statement .g1 :=
  of_not_t fun _ => by simp [encode]
theorem g2 : Statement .g2 :=
  of_not_t fun _ => by simp [encode]
theorem g4 : Statement .g4 :=
  of_not_t fun _ => by simp [encode]
theorem g8 : Statement .g8 :=
  of_not_t fun _ => by simp [encode]
theorem g16 : Statement .g16 :=
  of_not_t fun _ => by simp [encode]
theorem rgb8 : Statement .rgb8 :=
  of_not_t fun _ => by simp [encode]
theorem rgb16 : Statement .rgb16 :=
  of_not_t fun _ => by simp [encode]
theorem p1 : Statement .p1 :=
  of_not_t fun _ => by simp [encode]
theorem p2 : Statement .p2 :=
  of_not_t fun _ => by simp [encode]
theorem p4 : Statement .p4 :=
  of_not_t fun _ => by simp [encode]
theorem p8 : Statement .p8 :=
  of_not_t fun _ => by simp [encode]
theorem ga8 : Statement .ga8 :=
  of_not_t fun _ => by simp [encode]
theorem ga16 : Statement .ga16 :=
  of_not_t fun _ => by simp [encode]
theorem rgba8 : Statement .rgba8 :=
  of_not_t fun _ => by simp [encode]
theorem rgba16 : Statement .rgba16 :=
  of_not_t fun _ => by simp [encode]
theorem fmtIllegal (depth ctype interlace : Byte) : Statement (.fmtIllegal depth ctype interlace) :=
  of_not_t fun _ => by simp [encode]

end Sys2Proof.Laws.EncodesAligned
end

