-- ==== Sys2Proof/Tests/Slice0.lean ====
section
/-! SUPPORT. The model's own tests: the well-formedness smoke tests, one written-out word for every constructor,
small one-step tests with the expected values of spec/95_test_vectors.md, and the witnesses that the hypotheses
of the obligations can be met. -/

open Sys2Proof Sys2Proof.Machine

namespace Tests

/-! ### Helpers -/

/-- The next state, if there is one. -/
def next? : Result → Option State
  | .next s => some s
  | .fault _ => none
  | .refused _ => none

/-- STATUS after a transaction. -/
def statusAfter (r : Result) : Option Word := (next? r).map State.status

/-- The held pixel after a transaction. -/
def pixelAfter (r : Result) : Option Rgba16 := (next? r).bind State.heldPixel?

/-- The byte reconstructed at column 1 by a transaction. -/
def curAfter (r : Result) : Option Byte := (next? r).bind (fun s => Memory.read? s.cur 1)

/-- IDLE with `cfg 1, 2, 8, 0` written (95 V-L2-8). -/
def idle : State := { State.reset with cfgWidth := 1, cfgHeight := 2, cfgDepth := 8 }

/-- RUN at the first filter-type byte, in the format of depth `d` and colour type `c`. -/
def filling (d c : Byte) (w h : Word) (rb : Nat) : State :=
  { State.reset with
    st := .run, cfgWidth := w, cfgHeight := h, cfgDepth := d, cfgCtype := c,
    prior := Memory.cells 0 (List.replicate rb 0) }

/-- RUN with IN_READY, after `cfg 1, 2, 8, 0` and START (95 V-L2-8). -/
def ready : State := filling 8 0 1 2 1

/-- RUN in the last data byte of a scanline: `ready` after the filter-type byte NONE. -/
def atData : State := { ready with phase := .data }

/-- RUN with a pixel held: `ready` after `scan NONE, 5` (95 V-L2-8). -/
def held : State :=
  { ready with
    row := 1, pend := true, cursor := 8, outValid := true, out := ⟨1285, 1285, 1285, 65535⟩, inByte := 5,
    prior := [(0, 5)], cur := [(0, 5)] }

/-- The last pixel of the image held: `held` one scanline further (95 V-L2-8). -/
def heldLast : State := { held with row := 2, cursor := 16, pixels := 1 }

/-- DONE after both scanlines (95 V-L2-8). -/
def finished : State :=
  { heldLast with st := .done, pend := false, outValid := false, out := Rgba16.zero, pixels := 2 }

/-- ERROR after `wr CTRL, 15` in IDLE (95 V-L2-8). -/
def failed : State := { idle with st := .error, errKind := 6, errCause := 6 }

/-- RUN where the first pixel of scanline 0 is to be extracted from the given bytes, with the palette of 95
V-L1-6. -/
def draining (d c : Byte) (bytes : List Byte) : State :=
  { filling d c 1 1 0 with
    row := 1, pend := true, prior := Memory.cells 0 bytes,
    pal := [(0, ⟨2570, 5140, 7710, 65535⟩), (1, ⟨10280, 12850, 15420, 65535⟩)], palLen := 2 }

/-- RUN in mode G8 at column 1 of a scanline of three bytes, with the neighbours `a`, `b`, `c` and the byte `x`
at hand (95 V-L2-1). -/
def atByte (f x a b c : Byte) : State :=
  { filling 8 0 3 2 0 with
    phase := .data, col := 1, ftype := f, inByte := x, cur := [(0, a)], prior := [(0, c), (1, b), (2, 0)] }

/-! ### Well-formedness: for each check, an ill-formed term it refuses and a term at its edge it admits -/

theorem test_wf_cmdReserved : (Instr.cmdReserved 5 0).wellFormed = false ∧ (Instr.cmdReserved 6 0).wellFormed := by
  decide

theorem test_wf_wrIgnored_aligned :
    (Instr.wrIgnored 0x05 0).wellFormed = false ∧ (Instr.wrIgnored 0x04 0).wellFormed := by decide

theorem test_wf_wrIgnored_writable : (Instr.wrIgnored 0x28 0).wellFormed = false := by decide

theorem test_wf_rd : (Instr.rd 0x02).wellFormed = false ∧ (Instr.rd 0xFC).wellFormed := by decide

theorem test_wf_filterIllegal : (Instr.filterIllegal 4).wellFormed = false ∧ (Instr.filterIllegal 5).wellFormed := by
  decide

theorem test_wf_fmtIllegal : (Instr.fmtIllegal 8 2 0).wellFormed = false ∧ (Instr.fmtIllegal 8 2 1).wellFormed := by
  decide

/-! ### Decoding: words written out from 30_encoding.md, as opcode-table words -/

/-- W = 1, OFFSET = 0x00, CMD in DATA[3:0] (R103). -/
theorem test_decode_commands :
    decodeTableWord 48 0x10000000000 = some (.nop 0) ∧
    decodeTableWord 48 0x10000000001 = some (.start 0) ∧
    decodeTableWord 48 0x10000000012 = some (.abort 1) ∧
    decodeTableWord 48 0x10080000003 = some (.eos 0x8000000) ∧
    decodeTableWord 48 0x10000000004 = some (.palClear 0) ∧
    decodeTableWord 48 0x10000000005 = some (.pop 0) ∧
    decodeTableWord 48 0x10000000006 = some (.cmdReserved 6 0) ∧
    decodeTableWord 48 0x1000000000F = some (.cmdReserved 15 0) := by decide

/-- The words of 95 L3, and offsets beside the writable ones (R102). -/
theorem test_decode_registers :
    decodeTableWord 48 0x10800000005 = some (.wrWidth 5) ∧
    decodeTableWord 48 0x10C00000002 = some (.wrHeight 2) ∧
    decodeTableWord 48 0x11000010304 = some (.wrFormat 4 3 1 0) ∧
    decodeTableWord 48 0x120001E140A = some (.wrPalData 10 20 30 0) ∧
    decodeTableWord 48 0x1280000001B = some (.wrInData 0x1B 0) ∧
    decodeTableWord 48 0x1FC00000007 = some (.wrIgnored 0xFC 7) ∧
    decodeTableWord 48 0x05C00000000 = some (.rd 0x5C) ∧
    decodeTableWord 48 0x10900000000 = none := by decide

/-- Filter-type bytes (R104). -/
theorem test_decode_filters :
    decodeTableWord 8 0 = some .filterNone ∧ decodeTableWord 8 1 = some .filterSub ∧
    decodeTableWord 8 2 = some .filterUp ∧ decodeTableWord 8 3 = some .filterAvg ∧
    decodeTableWord 8 4 = some .filterPaeth ∧ decodeTableWord 8 5 = some (.filterIllegal 5) := by decide

/-- INTERLACE << 16 | COLOR_TYPE << 8 | BIT_DEPTH (R105). -/
theorem test_decode_modes :
    decodeTableWord 24 0x000001 = some .g1 ∧ decodeTableWord 24 0x000002 = some .g2 ∧
    decodeTableWord 24 0x000004 = some .g4 ∧ decodeTableWord 24 0x000008 = some .g8 ∧
    decodeTableWord 24 0x000010 = some .g16 ∧ decodeTableWord 24 0x000208 = some .rgb8 ∧
    decodeTableWord 24 0x000210 = some .rgb16 ∧ decodeTableWord 24 0x000301 = some .p1 := by decide

theorem test_decode_modes_indexed_alpha :
    decodeTableWord 24 0x000302 = some .p2 ∧ decodeTableWord 24 0x000304 = some .p4 ∧
    decodeTableWord 24 0x000308 = some .p8 ∧ decodeTableWord 24 0x000408 = some .ga8 ∧
    decodeTableWord 24 0x000410 = some .ga16 ∧ decodeTableWord 24 0x000608 = some .rgba8 ∧
    decodeTableWord 24 0x000610 = some .rgba16 ∧ decodeTableWord 24 0x000003 = some (.fmtIllegal 3 0 0) := by decide

/-! ### Placing a word where the next step runs it -/

theorem test_withFetchWord_start :
    statusAfter (step (State.reset.withFetchWord 48 0x10000000001)) = some 0x2203 := by decide

theorem test_withFetchWord_filter :
    statusAfter (step (State.reset.withFetchWord 8 9)) = some 0x5203 := by decide

theorem test_withFetchWord_mode :
    statusAfter (step (State.reset.withFetchWord 24 0x000208)) = some 0x0011 := by decide

/-! ### One step of each instruction. The expected values are those of 95 V-L2-8 (STATUS), V-L2-1 (filters),
V-L1-6 (pixels) and V-L2-9 (START). -/

theorem test_nop : statusAfter (exec (.nop 0) held) = some 0x00A1 := by decide
theorem test_start_idle : statusAfter (exec (.start 0) idle) = some 0x0011 := by decide
theorem test_start_run : statusAfter (exec (.start 0) held) = some 0x7683 := by decide
theorem test_abort : statusAfter (exec (.abort 0) held) = some 0x0000 := by decide
theorem test_eos_run : statusAfter (exec (.eos 0) held) = some 0x6283 := by decide
theorem test_eos_idle : statusAfter (exec (.eos 0) idle) = some 0x8603 := by decide
theorem test_palClear_run : statusAfter (exec (.palClear 0) ready) = some 0x2603 := by decide
theorem test_pop_held : statusAfter (exec (.pop 0) held) = some 0x0011 := by decide
theorem test_pop_ready : statusAfter (exec (.pop 0) ready) = some 0x5603 := by decide
theorem test_cmdReserved : statusAfter (exec (.cmdReserved 6 0) held) = some 0x6683 := by decide
theorem test_wrWidth_run : statusAfter (exec (.wrWidth 1) held) = some 0x1683 := by decide
theorem test_wrHeight_run : statusAfter (exec (.wrHeight 2) ready) = some 0x1603 := by decide

/-- 95 L3-C: the FORMAT of `cfg 3, 2, 4, 3`, as it is read back. -/
theorem test_wrFormat : (next? (exec (.wrFormat 4 3 0 0xFF) idle)).map State.format = some 0x304 := by decide

/-- 95 V-L2-6: `pal 10, 20, 30`. -/
theorem test_wrPalData :
    (next? (exec (.wrPalData 10 20 30 0xFF) idle)).map (fun s => (s.palLen, Memory.read? s.pal 0)) =
      some (1, some ⟨2570, 5140, 7710, 65535⟩) := by decide

theorem test_wrInData_filter : statusAfter (exec (.wrInData 0 0) ready) = some 0x0051 := by decide
theorem test_wrInData_pending : statusAfter (exec (.wrInData 0 0) held) = some 0x4683 := by decide
theorem test_wrIgnored : statusAfter (exec (.wrIgnored 0x04 0) held) = some 0x00A1 := by decide

/-- 95 V-L2-7: GEOM of mode G8. -/
theorem test_rd_geom : (next? (exec (.rd 0x14) idle)).map State.rdData = some 0x819 := by decide

/-- 95 V-L2-6: G8, s = 7. -/
theorem test_rd_out :
    (next? (exec (.rd 0x30) { held with out := ⟨1799, 1799, 1799, 65535⟩ })).map State.rdData = some 0xFFFF0707 := by
  decide

theorem test_filterNone : curAfter (exec .filterNone (atByte 0 0x7F 9 9 9)) = some 0x7F := by decide
theorem test_filterSub : curAfter (exec .filterSub (atByte 1 0xF0 0x20 0 0)) = some 0x10 := by decide
theorem test_filterUp : curAfter (exec .filterUp (atByte 2 0x80 0 0x80 0)) = some 0x00 := by decide
theorem test_filterAvg_no_wrap : curAfter (exec .filterAvg (atByte 3 0x00 200 200 0)) = some 0xC8 := by decide
theorem test_filterAvg_floor : curAfter (exec .filterAvg (atByte 3 0x10 1 2 0)) = some 0x11 := by decide
theorem test_filterPaeth_tie : curAfter (exec .filterPaeth (atByte 4 0x00 3 15 7)) = some 0x0F := by decide
theorem test_filterPaeth_wrap : curAfter (exec .filterPaeth (atByte 4 0xF0 100 20 0)) = some 0x54 := by decide
theorem test_filterIllegal : statusAfter (exec (.filterIllegal 9) ready) = some 0x5203 := by decide

theorem test_g1 : pixelAfter (exec .g1 (draining 1 0 [0x80])) = some ⟨65535, 65535, 65535, 65535⟩ := by decide
theorem test_g2 : pixelAfter (exec .g2 (draining 2 0 [0x80])) = some ⟨43690, 43690, 43690, 65535⟩ := by decide
theorem test_g4 : pixelAfter (exec .g4 (draining 4 0 [0x80])) = some ⟨34952, 34952, 34952, 65535⟩ := by decide
theorem test_g8 : pixelAfter (exec .g8 (draining 8 0 [0x12])) = some ⟨4626, 4626, 4626, 65535⟩ := by decide
theorem test_g16 : pixelAfter (exec .g16 (draining 16 0 [0x12, 0x34])) = some ⟨4660, 4660, 4660, 65535⟩ := by decide
theorem test_rgb8 : pixelAfter (exec .rgb8 (draining 8 2 [1, 2, 3])) = some ⟨257, 514, 771, 65535⟩ := by decide
theorem test_rgb16 :
    pixelAfter (exec .rgb16 (draining 16 2 [0x12, 0x34, 0x56, 0x78, 0x9A, 0xBC])) =
      some ⟨4660, 22136, 39612, 65535⟩ := by decide
theorem test_p1 : pixelAfter (exec .p1 (draining 1 3 [0x80])) = some ⟨10280, 12850, 15420, 65535⟩ := by decide
theorem test_p2 : pixelAfter (exec .p2 (draining 2 3 [0x40])) = some ⟨10280, 12850, 15420, 65535⟩ := by decide
/-- 95 V-L1-5: the sample 2 is not below pal_len = 2. -/
theorem test_p2_index_error : statusAfter (exec .p2 (draining 2 3 [0x80])) = some 0x0483 := by decide
theorem test_p4 : pixelAfter (exec .p4 (draining 4 3 [0x10])) = some ⟨10280, 12850, 15420, 65535⟩ := by decide
theorem test_p8 : pixelAfter (exec .p8 (draining 8 3 [0x01])) = some ⟨10280, 12850, 15420, 65535⟩ := by decide
theorem test_ga8 : pixelAfter (exec .ga8 (draining 8 4 [0x40, 0x80])) = some ⟨16448, 16448, 16448, 32896⟩ := by decide
theorem test_ga16 :
    pixelAfter (exec .ga16 (draining 16 4 [0x12, 0x34, 0x80, 0x00])) = some ⟨4660, 4660, 4660, 32768⟩ := by decide
theorem test_rgba8 :
    pixelAfter (exec .rgba8 (draining 8 6 [1, 2, 3, 128])) = some ⟨257, 514, 771, 32896⟩ := by decide
theorem test_rgba16 :
    pixelAfter (exec .rgba16 (draining 16 6 [0x00, 0x01, 0x80, 0x00, 0xFF, 0xFF, 0x12, 0x34])) =
      some ⟨1, 32768, 65535, 4660⟩ := by decide
/-- 95 V-L2-9: the CapacityError of `cfg 682, 1, 16, 6`, and the causes of an illegal format. -/
theorem test_rgba16_capacity : statusAfter (exec .rgba16 { idle with cfgWidth := 682 }) = some 0x0503 := by decide
theorem test_fmtIllegal_type : statusAfter (exec (.fmtIllegal 3 5 1) idle) = some 0x1203 := by decide
theorem test_fmtIllegal_interlace : statusAfter (exec (.fmtIllegal 8 0 1) idle) = some 0x3203 := by decide

/-! ### The memory of the reset state -/

theorem test_reset_memory :
    Memory.wf State.reset.pal = true ∧ Memory.wf State.reset.prior = true ∧ Memory.wf State.reset.cur = true := by
  decide

/-! ### States that meet the invariant -/

theorem inv_idle : idle.Inv := by
  constructor
  case running => exact fun h => absurd h (by decide)
  all_goals decide

theorem inv_finished : finished.Inv := by
  constructor
  case running => exact fun h => absurd h (by decide)
  all_goals decide

theorem inv_failed : failed.Inv := by
  constructor
  case running => exact fun h => absurd h (by decide)
  all_goals decide


theorem inv_ready : ready.Inv := by
  constructor
  case running => exact fun _ => ⟨.g8, by constructor <;> decide⟩
  all_goals decide

theorem inv_atData : atData.Inv := by
  constructor
  case running => exact fun _ => ⟨.g8, by constructor <;> decide⟩
  all_goals decide

theorem inv_held : held.Inv := by
  constructor
  case running => exact fun _ => ⟨.g8, by constructor <;> decide⟩
  all_goals decide

theorem inv_heldLast : heldLast.Inv := by
  constructor
  case running => exact fun _ => ⟨.g8, by constructor <;> decide⟩
  all_goals decide

theorem pixel_held : held.PixelInv := by
  intro _ m hm
  have : m = .g8 := (Option.some.inj (show some Mode.g8 = some m from hm)).symm
  subst this
  decide

/-- The state with one event to come. -/
def State.before (s : State) (e : HostEvent) : State := { s with pending := [e] }

/-- The host writes `data` to offset `off` of the window at address 0. -/
def write (off : Nat) (data : Word) : HostEvent := .access ⟨true, off, 4, data⟩

theorem inv_before_held (e : HostEvent) : (State.before held e).Inv := inv_held.of_queue [e] _

/-! ### Witnesses: for each obligation with hypotheses, values that meet them, clause by clause -/

theorem witness_DecodeOfEncode :
    ∀ i ∈ [Instr.cmdReserved 6 0, .cmdReserved 15 0xFFFFFFF, .wrIgnored 0xFC 0, .rd 0xFC, .filterIllegal 5,
        .filterIllegal 255, .fmtIllegal 8 0 1, .fmtIllegal 0 0 0], i.wellFormed = true := by decide

theorem witness_EncodeOfDecode :
    decode (.t 0x10000000001) = .ok (.start 0) ∧ decode (.t 0x00400000007) = .ok (.rd 4) ∧
    decode (.fb 255) = .ok (.filterIllegal 255) ∧ decode (.fmt 0x000610) = .ok .rgba16 := ⟨rfl, rfl, rfl, rfl⟩

/-- Every offset that a clause names, and every command, at its smallest and its largest data. -/
theorem witness_TransactionMap :
    (∀ off ∈ [(0x00 : Byte), 0x04, 0x08, 0x0C, 0x10, 0x20, 0x28, 0xFC], off.toNat % 4 = 0) ∧
    (∀ k < 6, (BitVec.ofNat 32 k : Word).toNat % 16 = k) ∧ (0xFFFFFFF5 : Word).toNat % 16 = 5 ∧
    (6 ≤ (6 : Word).toNat % 16 ∧ 6 ≤ (0xFFFFFFFF : Word).toNat % 16) ∧
    (∀ off ∈ [(0x04 : Byte), 0xFC], off.toNat ∉ [0x00, 0x08, 0x0C, 0x10, 0x20, 0x28]) :=
  ⟨by decide, by decide, rfl, ⟨by decide, by decide⟩, by decide⟩

theorem witness_FilterTypeMap :
    (0 : Byte).toNat = 0 ∧ (1 : Byte).toNat = 1 ∧ (2 : Byte).toNat = 2 ∧ (3 : Byte).toNat = 3 ∧
    (4 : Byte).toNat = 4 ∧ 5 ≤ (5 : Byte).toNat ∧ 5 ≤ (255 : Byte).toNat := by decide

theorem witness_DecodeModeMap :
    (0x000610, Mode.rgba16, 4, 64, 8) ∈ modeRows ∧
    (∀ w ∈ [(0x000000 : FmtWord), 0x010008, 0xFFFFFF], w ∉ modeRows.map (·.1)) := by simp [modeRows]

theorem witness_StepRunsDecodedInstr :
    (State.before State.reset (.access (BusAccess.ofWord 0x10000000001 State.reset.config))).pending =
      [.access (BusAccess.ofWord 0x10000000001 State.reset.config)] ∧
    decode (.t 0x10000000001) = .ok (.start 0) := ⟨rfl, rfl⟩

/-- The last aligned access of the window, and one that misses each condition. -/
theorem witness_OnlyTransactionsRun :
    (⟨true, 252, 4, 0⟩ : BusAccess).isTransaction State.reset.config = true ∧
    (∀ a ∈ [(⟨true, 253, 4, 0⟩ : BusAccess), ⟨false, 256, 4, 0⟩, ⟨true, 0, 2, 0⟩],
      a.isTransaction State.reset.config = false) := by decide

theorem witness_HoldAndReset :
    State.reset.pending = [] ∧ (State.before held .reset).pending = [.reset] := ⟨rfl, rfl⟩

theorem witness_StartRunsFormat : idle.st = .idle ∧ finished.st = .done := ⟨rfl, rfl⟩

theorem witness_DefilterInput :
    (heldLast.st = .run ∧ heldLast.row = heldLast.cfgHeight) ∧
    (held.st = .run ∧ held.row ≠ held.cfgHeight ∧ held.pend = true) ∧
    (ready.st = .run ∧ ready.row ≠ ready.cfgHeight ∧ ready.pend = false ∧ ready.phase = .filt) ∧
    (atData.st = .run ∧ atData.row ≠ atData.cfgHeight ∧ atData.pend = false ∧ atData.phase = .data) := by decide

theorem witness_StreamByteOutsideRun : idle.st = .idle ∧ finished.st = .done ∧ failed.st = .error := ⟨rfl, rfl, rfl⟩

theorem witness_RdReturnsVariables :
    ({ idle with palLen := 256 } : State).palLen ≤ 256 ∧ 0x60 ≤ (0x60 : Byte).toNat ∧ 0x60 ≤ (0xFF : Byte).toNat := by
  decide

theorem witness_GeometryRegisters :
    ({ idle with cfgDepth := 16, cfgCtype := 6, cfgWidth := 0xFFFFFFFF } : State).mode? = some .rgba16 ∧
    State.reset.mode? = none := ⟨rfl, rfl⟩

theorem witness_OutputRegisters : held.outValid = true ∧ ready.outValid = false := ⟨rfl, rfl⟩

theorem witness_ConfigurationWrites :
    idle.st = .idle ∧ finished.st = .done ∧ ready.st = .run ∧ failed.st = .error ∧
    (∀ j ∈ [Instr.wrWidth 0xFFFFFFFF, .wrHeight 0, .wrFormat 8 2 1 0xFF],
      j ∈ [Instr.wrWidth 0xFFFFFFFF, .wrHeight 0, .wrFormat 8 2 1 0xFF]) := by decide

theorem witness_PaletteClear :
    idle.st = .idle ∧ finished.st = .done ∧ ready.st = .run ∧ failed.st = .error := ⟨rfl, rfl, rfl, rfl⟩

theorem witness_PaletteAppend :
    ({ idle with palLen := 255 } : State).palLen < 256 ∧ 256 ≤ ({ finished with palLen := 256 } : State).palLen ∧
    idle.st = .idle ∧ finished.st = .done ∧ ready.st = .run ∧ failed.st = .error := by decide

theorem witness_NoEffectTransactions :
    (∀ off ∈ [(0x04 : Byte), 0x14, 0x18, 0x1C, 0x24], off.toNat ∈ [0x04, 0x14, 0x18, 0x1C, 0x24]) ∧
    (∀ off ∈ [(0x2C : Byte), 0x5C, 0x60, 0xFC], 0x2C ≤ off.toNat ∧ off.toNat % 4 = 0) := by decide

theorem witness_ReservedCommand :
    6 ≤ (6 : BitVec 4).toNat ∧ 6 ≤ (15 : BitVec 4).toNat ∧ idle.st ≠ .error ∧ ready.st ≠ .error ∧
    failed.st = .error := by decide

/-- Colour type, pair, interlace, dimensions at 0 and 2^31, and a row one byte too long. -/
theorem witness_StartRefusals :
    (5 : Byte).toNat ∉ [0, 2, 3, 4, 6] ∧ ((0, 3) : Nat × Nat) ∉ legalPairs ∧ ((0, 8) : Nat × Nat) ∈ legalPairs ∧
    ({ idle with cfgInterlace := 1 } : State).cfgInterlace ≠ 0 ∧
    (idle.mode? = some .g8 ∧ idle.cfgInterlace = 0) ∧
    ¬(1 ≤ (0 : Word).toNat) ∧ ¬((0x80000000 : Word).toNat ≤ 2 ^ 31 - 1) ∧
    idle.config.rowBufBytes < (Mode.bitsPP .g8 * (4097 : Word).toNat + 7) / 8 :=
  ⟨by decide, by decide, by decide, by decide, by decide, by decide,
    fun h => Bool.noConfusion (Nat.ble_eq_true_of_le h), Nat.le_of_ble_eq_true rfl⟩

/-- The smallest and the largest dimensions, the second with a row that fills a buffer of 2^28 bytes. -/
theorem witness_StartEntersRun :
    (idle.st = .idle ∧ 1 ≤ idle.cfgWidth.toNat ∧ idle.cfgWidth.toNat ≤ 2 ^ 31 - 1 ∧ 1 ≤ idle.cfgHeight.toNat ∧
      idle.cfgHeight.toNat ≤ 2 ^ 31 - 1 ∧
      (Mode.bitsPP .g8 * idle.cfgWidth.toNat + 7) / 8 ≤ idle.config.rowBufBytes ∧
      idle.mode? = some .g8 ∧ idle.cfgInterlace = 0) ∧
    (finished.st = .done ∧ (0x7FFFFFFF : Word).toNat ≤ 2 ^ 31 - 1 ∧
      (Mode.bitsPP .g1 * (0x7FFFFFFF : Word).toNat + 7) / 8 ≤ 2 ^ 28) :=
  ⟨by decide, rfl, Nat.le_of_ble_eq_true rfl, Nat.le_of_ble_eq_true rfl⟩

theorem witness_IllegalFormat :
    (∀ i ∈ [Instr.fmtIllegal 8 5 0, .fmtIllegal 3 0 0, .fmtIllegal 8 0 1], i.wellFormed = true) ∧
    (5 : Byte).toNat ∉ [0, 2, 3, 4, 6] ∧ ((0, 3) : Nat × Nat) ∉ legalPairs ∧ ((0, 8) : Nat × Nat) ∈ legalPairs ∧
    idle.st = .idle ∧ failed.st = .error ∧ ready.st = .run := by decide

theorem witness_EndOfStream :
    (held.st = .run ∧ held.row.toNat < held.cfgHeight.toNat) ∧
    (heldLast.st = .run ∧ heldLast.cfgHeight.toNat ≤ heldLast.row.toNat) ∧ idle.st = .idle ∧ finished.st = .done := by
  decide

theorem witness_PopRule :
    (ready.st = .run ∧ ready.outValid = false) ∧ idle.st = .idle ∧ finished.st = .done ∧ failed.st = .error ∧
    (held.st = .run ∧ held.outValid = true ∧ held.cfgWidth.toNat ≤ held.xcol.toNat + 1) ∧
    (let s := { held with cfgWidth := 2, cfgDepth := 4 }
     s.mode? = some .g4 ∧ s.st = .run ∧ s.outValid = true ∧ s.xcol.toNat + 1 < s.cfgWidth.toNat) := by decide

theorem witness_FilterByteRule :
    (ready.st = .run ∧ ready.row ≠ ready.cfgHeight ∧ ready.pend = false ∧ ready.phase = .filt) ∧
    (4 : Byte).toNat ≤ 4 ∧ 5 ≤ (5 : Byte).toNat := by decide

/-- The first column, and one that has a byte to its left. -/
theorem witness_DataByteRule :
    (let s := { atByte 4 0 9 7 8 with col := 0 }
     s.st = .run ∧ s.row ≠ s.cfgHeight ∧ s.pend = false ∧ s.phase = .data ∧ s.mode? = some .g8 ∧
       s.ftype = codeOf .paeth ∧ s.col.toNat + 1 < Mode.rowBytes .g8 s.cfgWidth ∧
       Mode.rowBytes .g8 s.cfgWidth ≤ s.config.rowBufBytes ∧ neighboursAre s (Mode.fbpp .g8) s.col.toNat 0 8 0) ∧
    (let s := atByte 4 0 9 7 8
     s.col.toNat + 1 < Mode.rowBytes .g8 s.cfgWidth ∧ s.inByte = 0 ∧
       neighboursAre s (Mode.fbpp .g8) s.col.toNat 9 7 8) := by
  unfold neighboursAre
  decide

theorem witness_CompleteRowRule :
    atData.st = .run ∧ atData.row ≠ atData.cfgHeight ∧ atData.pend = false ∧ atData.phase = .data ∧
    atData.mode? = some .g8 ∧ atData.ftype = codeOf .none ∧
    atData.col.toNat + 1 = Mode.rowBytes .g8 atData.cfgWidth ∧
    Mode.rowBytes .g8 atData.cfgWidth ≤ atData.config.rowBufBytes ∧ atData.config.rowBufBytes ≤ 2 ^ 30 ∧
    Memory.full atData.cur atData.col.toNat ∧ neighboursAre atData (Mode.fbpp .g8) atData.col.toNat 0 0 0 := by
  unfold neighboursAre
  decide

theorem witness_CursorAdvanceAndAlign :
    held.cursor.toNat + (2 ^ 64 - 9) < 2 ^ 64 ∧ held.cursor.toNat + 7 < 2 ^ 64 ∧ held.cursor.toNat % 8 = 0 := by decide

theorem witness_PackedSampleBits :
    Depth.bits .d1 ≤ 4 ∧ 7 + Depth.bits .d1 ≤ 8 ∧ Depth.bits .d4 ≤ 4 ∧ 4 + Depth.bits .d4 ≤ 8 := by decide

theorem witness_ScalingExact :
    (15 : Chan).toNat < 2 ^ Depth.bits .d4 ∧ (14 : Chan).toNat < (15 : Chan).toNat ∧
    (15 : Chan).toNat = 2 ^ Depth.bits .d4 - 1 := by decide

theorem witness_ResolveByColourType :
    (let s := draining 2 3 [0x80]
     s.palLen ≤ (2 : Chan).toNat ∧ (1 : Chan).toNat < s.palLen ∧ (1 : Chan).toNat < 256 ∧
       Memory.read? s.pal (1 : Chan).toNat = some ⟨10280, 12850, 15420, 65535⟩) := by decide

theorem due_draining (b : Byte) : (draining 2 3 [b]).ExtractionDue .p2 := by constructor <;> decide +revert

theorem witness_ExtractPixel :
    (draining 2 3 [0x40]).ExtractionDue .p2 ∧
    (draining 2 3 [0x40]).pixelAt .p2 (draining 2 3 [0x40]).xcol.toNat = some ⟨10280, 12850, 15420, 65535⟩ :=
  ⟨due_draining _, by decide⟩

theorem witness_ExtractIndexError :
    (draining 2 3 [0x80]).ExtractionDue .p2 ∧
    (draining 2 3 [0x80]).pixelAt .p2 (draining 2 3 [0x80]).xcol.toNat = none ∧
    (draining 2 3 [0x80]).row.toNat * (draining 2 3 [0x80]).cfgWidth.toNat < 2 ^ 64 :=
  ⟨due_draining _, by decide, by decide⟩

theorem witness_ErrorIsSticky : failed.st = .error := rfl

/-- ABORT, and a reset. -/
theorem witness_ErrorExits :
    ((State.before failed (write 0 2)).st = .error ∧
      (next? (step (State.before failed (write 0 2)))).map State.st = some .idle) ∧
    (next? (step (State.before failed .reset))).map State.st = some .idle := by decide

theorem witness_RunKeepsConfiguration : held.st = .run ∧ exec (.nop 0) held = .next held := ⟨rfl, rfl⟩

theorem witness_PalettePersists : exec (.abort 0) held = .next held.abort := rfl

/-- A step that moves on, and one that starts again. -/
theorem witness_PositionsNeverMoveBack :
    (State.before held (write 0 5)).Inv ∧ statusAfter (step (State.before held (write 0 5))) = some 0x0011 ∧
    statusAfter (step (State.before held (write 0 2))) = some 0x0000 :=
  ⟨inv_before_held _, by decide, by decide⟩

theorem witness_NoPixelInError : failed.Inv ∧ failed.st = .error := ⟨inv_failed, rfl⟩

theorem witness_ResetSatisfiesInv :
    Config.reference.wf ∧ (⟨1, 0⟩ : Config).wf ∧ (⟨2 ^ 30, 0⟩ : Config).wf := by decide

theorem witness_StepKeepsInv :
    (State.before held (write 0 5)).Inv ∧ statusAfter (step (State.before held (write 0 5))) = some 0x0011 :=
  ⟨inv_before_held _, by decide⟩

theorem witness_StepNeverFaults : ready.Inv ∧ atData.Inv ∧ heldLast.Inv ∧ finished.Inv :=
  ⟨inv_ready, inv_atData, inv_heldLast, inv_finished⟩

theorem witness_RunsNeverStop :
    (State.before held (write 0x5C 0)).Inv ∧ (State.before held (write 0x5C 0)).queueOk = true :=
  ⟨inv_before_held _, by decide⟩

theorem witness_StepKeepsHeldPixel :
    (State.before held (write 0 0)).Inv ∧ (State.before held (write 0 0)).PixelInv ∧
    statusAfter (step (State.before held (write 0 0))) = some 0x00A1 :=
  ⟨inv_before_held _, pixel_held, by decide⟩

/-- A scanline filling, and one draining. -/
theorem witness_RunInvariants :
    (ready.Inv ∧ ready.st = .run ∧ ready.pend = false ∧ ready.phase = .filt) ∧
    (held.Inv ∧ held.st = .run ∧ held.pend = true ∧ held.outValid = true) :=
  ⟨⟨inv_ready, rfl, rfl, rfl⟩, inv_held, rfl, rfl, rfl⟩

theorem witness_DoneMeansWholeImage :
    (State.before heldLast (write 0 5)).Inv ∧ (State.before heldLast (write 0 5)).st = .run ∧
    (next? (step (State.before heldLast (write 0 5)))).map State.st = some .done :=
  ⟨inv_heldLast.of_queue [write 0 5] _, rfl, by decide⟩

theorem witness_ScanlineReconstructed :
    ready.Inv ∧ ready.st = .run ∧ ready.mode? = some .g8 ∧ ready.pend = false ∧ ready.phase = .filt ∧
    [(5 : Byte)].length = Mode.rowBytes .g8 ready.cfgWidth := ⟨inv_ready, rfl, rfl, rfl, rfl, rfl⟩

theorem witness_ScanlineDrained :
    held.Inv ∧ held.PixelInv ∧ held.st = .run ∧ held.mode? = some .g8 ∧ held.pend = true ∧ held.xcol = 0 ∧
    rowPixels held.pal held.palLen .g8 held.cfgWidth.toNat
        ((List.range (Mode.rowBytes .g8 held.cfgWidth)).map held.rowByte) =
      some [⟨1285, 1285, 1285, 65535⟩] := ⟨inv_held, pixel_held, rfl, rfl, rfl, rfl, by decide⟩

theorem witness_ImageDecoded :
    ready.Inv ∧ ready.st = .run ∧ ready.mode? = some .g8 ∧ ready.row = 0 ∧ ready.pend = false ∧ ready.phase = .filt ∧
    (let lines : List (FilterType × List Byte) := [(.none, [5]), (.up, [6])]
     lines.length = ready.cfgHeight.toNat ∧
       (∀ l ∈ lines, l.2.length = Mode.rowBytes .g8 ready.cfgWidth) ∧
       imagePixels ready.pal ready.palLen .g8 ready.cfgWidth.toNat
           ((List.range (Mode.rowBytes .g8 ready.cfgWidth)).map ready.rowByte) lines =
         some [⟨1285, 1285, 1285, 65535⟩, ⟨2827, 2827, 2827, 65535⟩]) :=
  ⟨inv_ready, rfl, rfl, rfl, rfl, rfl, by decide⟩

end Tests
end

section
/-! SUPPORT. A scanline in a row buffer, as a list of bytes: what the reference decode of Safety.lean names, read
from the machine's memories. -/

namespace Sys2Proof.Machine.Memory

variable {α : Type}

/-- The first cells of the memory hold the given values. -/
def holds (m : List (Nat × α)) (vs : List α) : Prop := ∀ i < vs.length, read? m i = vs[i]?

theorem holds_nil (m : List (Nat × α)) : holds m [] := fun i hi => absurd hi (Nat.not_lt_zero i)

/-- The next cell written holds one value more. -/
theorem holds_write_append {m : List (Nat × α)} {vs : List α} (h : holds m vs) (v : α) :
    holds (write m vs.length v) (vs ++ [v]) := by
  intro i hi
  rw [List.length_append, List.length_singleton] at hi
  rw [read?_write]
  by_cases hv : i = vs.length
  · simp [hv]
  · rw [if_neg hv, h i (by omega), List.getElem?_append_left (by omega)]

/-- Cells that hold values are written. -/
theorem holds.full {m : List (Nat × α)} {vs : List α} (h : holds m vs) : full m vs.length := by
  intro i hi
  rw [h i hi, List.getElem?_eq_getElem hi]
  rfl

/-- What a cell that holds a value reads as, with `d` for the cells beyond. -/
theorem holds.read {m : List (Nat × α)} {vs : List α} (h : holds m vs) {i : Nat} (hi : i < vs.length) (d : α) :
    read? m i = some (vs.getD i d) := by
  rw [h i hi, List.getElem?_eq_getElem hi, List.getD_eq_getElem _ _ hi]

end Sys2Proof.Machine.Memory

namespace Sys2Proof.Machine

/-! ### A scanline as a list -/

/-- The first `n` bytes of the scanline in `prior`, as the statements on the decode write them. -/
abbrev State.priorBytes (s : State) (n : Nat) : List Byte := (List.range n).map s.rowByte

/-- A scanline that is written holds its bytes. -/
theorem holds_priorBytes {s : State} {n : Nat} (h : Memory.full s.prior n) : Memory.holds s.prior (s.priorBytes n) := by
  intro i hi
  have hi : i < n := by simpa using hi
  obtain ⟨v, hv⟩ := Option.isSome_iff_exists.1 (h i hi)
  simp [State.rowByte, hi, hv]

theorem rowByte_of_holds {s : State} {vs : List Byte} (h : Memory.holds s.prior vs) {i : Nat} (hi : i < vs.length) :
    s.rowByte i = vs.getD i 0 := by
  rw [State.rowByte, h.read hi 0]; rfl

/-- The bytes of a scanline are the list that it holds. -/
theorem priorBytes_of_holds {s : State} {vs : List Byte} (h : Memory.holds s.prior vs) :
    s.priorBytes vs.length = vs := by
  apply List.ext_getElem (by simp)
  intro i hi hv
  rw [List.getElem_map, List.getElem_range, rowByte_of_holds h hv, List.getD_eq_getElem _ _ hv]

/-! ### The neighbours of a byte, in lists -/

theorem lookBack_holds {c : Config} {buf : List Host.Cell} {vs : List Byte} {fbpp i : Nat} (h : Memory.holds buf vs)
    (hcap : vs.length ≤ c.rowBufBytes) (hi : i < vs.length + fbpp) :
    lookBack c buf fbpp i = .ok (backByte vs fbpp i) := by
  rw [lookBack_ok, backByte]
  by_cases hf : fbpp ≤ i
  · exact .inl ⟨hf, by omega, by rw [if_pos hf]; exact h.read (by omega) 0⟩
  · exact .inr ⟨by omega, if_neg hf⟩

/-- A counter below its width's limit does not wrap. -/
theorem toNat_add_one {n : Nat} {c : BitVec n} (h : c.toNat + 1 < 2 ^ n) : (c + 1).toNat = c.toNat + 1 := by
  have h1 : (1 : BitVec n).toNat = 1 := (BitVec.toNat_ofNat 1 n).trans (Nat.mod_eq_of_lt (by omega))
  rw [BitVec.toNat_add_of_lt (by omega), h1]

theorem fbpp_pos (m : Mode) : 1 ≤ m.fbpp := Nat.le_max_left ..

theorem neighbours_holds {s : State} {m : Mode} {above done : List Byte} (habove : Memory.holds s.prior above)
    (hdone : Memory.holds s.cur done) (hlt : done.length < above.length)
    (hcap : above.length ≤ s.config.rowBufBytes) :
    s.neighbours m.fbpp done.length =
      .ok (backByte done m.fbpp done.length, above.getD done.length 0, backByte above m.fbpp done.length) := by
  have hf := fbpp_pos m
  exact neighbours_ok.2 ⟨lookBack_holds hdone (by omega) (by omega),
    rowRead_nat_ok.2 ⟨by omega, habove.read hlt 0⟩, lookBack_holds habove hcap (by omega)⟩

end Sys2Proof.Machine
end

section
/-! SUPPORT. The pixel due: the place where a completed row and a POP meet, ExtractNext. -/

namespace Sys2Proof.Machine

/-- The invariant's mode in RUN is the one that FORMAT selects. -/
theorem State.Inv.runInv {s : State} {m : Mode} (h : s.Inv) (hst : s.st = .run) (hm : s.mode? = some m) :
    s.RunInv m := by
  obtain ⟨m', r⟩ := h.running hst
  exact r.mode_unique hm ▸ r

/-- ExtractNext's pixel `p` in the output register, the cursor at `k` (43_sample_extract.md R263). -/
def State.withPixel (s : State) (p : Rgba16) (k : Wide) : State := { s with out := p, outValid := true, cursor := k }

/-- The state in which a row's completion and a POP invoke ExtractNext: the pixel at column xcol is due, and the
invariant holds once it stands in the output register. -/
structure State.PixelDue (s : State) (m : Mode) : Prop where
  mode : s.mode? = some m
  due : s.ExtractionDue m
  inv : ∀ (p : Rgba16) (k : Wide), k.toNat = s.cursorAfter m → (s.withPixel p k).Inv

theorem State.PixelDue.extractNext_eq {s : State} {m : Mode} (h : s.PixelDue m) :
    extractNext s = toResult (s.extract m) := by
  rw [extractNext_mode h.mode, modeInstr_run m h.due.run]

/-- A pixel whose index is in range is placed in the output register, with the invariants. -/
theorem State.PixelDue.extractNext_some {s : State} {m : Mode} {p : Rgba16} (h : s.PixelDue m)
    (hp : s.pixelAt m s.xcol.toNat = some p) :
    ∃ k, extractNext s = .next (s.withPixel p k) ∧ (s.withPixel p k).Inv ∧ (s.withPixel p k).PixelInv := by
  obtain ⟨k, he, hk⟩ := extract_due_some h.due hp
  refine ⟨k, ?_, h.inv p k hk, ?_⟩
  · rw [h.extractNext_eq, he]; rfl
  · intro _ m' hm'
    obtain rfl : m = m' := Option.some.inj (h.mode.symm.trans hm')
    exact hp

end Sys2Proof.Machine
end

section
/-! SUPPORT. A scanline streamed in: its filter-type byte, its data bytes, its completion. -/

namespace Sys2Proof.Machine

/-- A scanline is filling: the bytes `done` of it are reconstructed under filter type `f`, below the scanline
`above` (42_defilter.md R203). -/
structure State.Filling (s : State) (m : Mode) (f : FilterType) (above done : List Byte) : Prop where
  inv : s.Inv
  run : s.st = .run
  mode : s.mode? = some m
  pend : s.pend = false
  phase : s.phase = .data
  ftype : s.ftype = codeOf f
  above_len : above.length = m.rowBytes s.cfgWidth
  prior : Memory.holds s.prior above
  done_len : done.length = s.col.toNat
  cur : Memory.holds s.cur done

/-- The reconstruction of the next byte `x` of a scanline (42_defilter.md R203, R204). -/
def nextByte (f : FilterType) (fbpp : Nat) (above done : List Byte) (x : Byte) : Byte :=
  reconOf f x (backByte done fbpp done.length) (above.getD done.length 0) (backByte above fbpp done.length)

theorem defilterFrom_cons (f : FilterType) (fbpp : Nat) (above done : List Byte) (x : Byte) (xs : List Byte) :
    defilterFrom f fbpp above done (x :: xs) =
      defilterFrom f fbpp above (done ++ [nextByte f fbpp above done x]) xs := rfl

theorem length_defilterFrom (f : FilterType) (fbpp : Nat) (above done xs : List Byte) :
    (defilterFrom f fbpp above done xs).length = done.length + xs.length := by
  induction xs generalizing done with
  | nil => rfl
  | cons x xs ih => rw [defilterFrom_cons, ih]; simp; omega

theorem length_defilterRow (f : FilterType) (fbpp : Nat) (above xs : List Byte) :
    (defilterRow f fbpp above xs).length = xs.length := by
  rw [defilterRow, length_defilterFrom, List.length_nil, Nat.zero_add]

/-- A stream byte `x` stored as `v` at the column `col`. -/
def State.storeByte (s : State) (x v : Byte) : State :=
  { s with inByte := x, cur := Memory.write s.cur s.col.toNat v, col := s.col + 1 }

theorem codeOf_toNat_le (f : FilterType) : (codeOf f).toNat ≤ 4 := by cases f <;> decide

/-- The filter-type byte `x` latched, the data bytes of its scanline to follow (42_defilter.md R202). -/
def State.latchFilter (s : State) (x : Byte) : State := { s with inByte := x, ftype := x, phase := .data, col := 0 }

/-- A legal filter-type byte in its place is latched (42_defilter.md R202). -/
theorem exec_filterByte {s : State} {f : FilterType} (hst : s.st = .run) (hrow : s.row ≠ s.cfgHeight)
    (hp : s.pend = false) (hph : s.phase = .filt) :
    exec (.wrInData (codeOf f) 0) s = .next (s.latchFilter (codeOf f)) := by
  rw [exec_inData_run _ _ hst hrow hp, State.filterCode, hph, decodeFb, decodeFilter_codeOf]
  dsimp only
  rw [exec_filter, filterInstr, inDataGate_run (by exact hst) (by exact hrow) (by exact hp)]
  dsimp only
  rw [filterByte_legal _ (codeOf_toNat_le f)]
  rfl

/-- Under the latched filter type the scanline fills, from its first byte on. -/
theorem filling_latchFilter {s : State} {m : Mode} {f : FilterType} (h : s.Inv) (hst : s.st = .run)
    (hm : s.mode? = some m) (hp : s.pend = false) :
    (s.latchFilter (codeOf f)).Filling m f (s.priorBytes (m.rowBytes s.cfgWidth)) [] := by
  have r := h.runInv hst hm
  exact {
    inv := { h with
      filt_col := nofun
      idle_clean := fun hi => absurd (hst.symm.trans hi) (by decide)
      running := fun _ => ⟨m, { r with
        col_lt := Nat.zero_lt_of_lt r.col_lt
        cur_full := fun i hi => absurd hi (Nat.not_lt_zero i)
        ftype_legal := fun _ => codeOf_toNat_le f
        draining := fun hd => absurd (hp.symm.trans hd) (by decide) }⟩ }
    run := hst
    mode := hm
    pend := hp
    phase := rfl
    ftype := rfl
    above_len := by rw [List.length_map, List.length_range]; rfl
    prior := holds_priorBytes r.prior_full
    done_len := rfl
    cur := Memory.holds_nil _ }

/-- A data byte is the work of the latched filter type (42_defilter.md R203). -/
theorem exec_dataByte {s : State} {f : FilterType} (x : Byte) (hst : s.st = .run) (hrow : s.row ≠ s.cfgHeight)
    (hp : s.pend = false) (hph : s.phase = .data) (hf : s.ftype = codeOf f) :
    exec (.wrInData x 0) s = dataByte (reconOf f) x { s with inByte := x } := by
  rw [exec_inData_run _ _ hst hrow hp, State.filterCode, hph, decodeFb, hf, decodeFilter_codeOf]
  dsimp only
  rw [exec_filter, filterInstr, inDataGate_run (by exact hst) (by exact hrow) (by exact hp)]

/-- The store of a data byte (42_defilter.md R203). -/
theorem State.Filling.reconstruct_eq {s : State} {m : Mode} {f : FilterType} {above done : List Byte}
    (h : s.Filling m f above done) (x : Byte) :
    State.reconstruct { s with inByte := x } m (reconOf f) x =
      .ok (s.storeByte x (nextByte f m.fbpp above done x)) := by
  have r := h.inv.runInv h.run h.mode
  have hlt : done.length < above.length := by rw [h.done_len, h.above_len]; exact r.col_lt
  have hn := neighbours_holds (m := m) h.prior h.cur hlt (h.above_len ▸ r.capacity)
  exact reconstruct_ok.2 ⟨_, _, _, h.done_len ▸ hn, Nat.lt_of_lt_of_le r.col_lt r.capacity, rfl⟩

theorem State.Filling.storeByte_col {s : State} {m : Mode} {f : FilterType} {above done : List Byte}
    (h : s.Filling m f above done) (x v : Byte) : (s.storeByte x v).col.toNat = done.length + 1 := by
  have r := h.inv.runInv h.run h.mode
  have hcol := r.col_lt
  have hcap := r.capacity.trans h.inv.config.2
  rw [h.done_len]
  exact toNat_add_one (c := s.col) (by omega)

/-- The byte at hand is reconstructed and stored, and the last one of a scanline completes it. -/
theorem State.Filling.exec_byte {s : State} {m : Mode} {f : FilterType} {above done : List Byte}
    (h : s.Filling m f above done) (x : Byte) :
    exec (.wrInData x 0) s =
      if done.length + 1 = m.rowBytes s.cfgWidth then
        completeRow (m.rowBytes s.cfgWidth) (s.storeByte x (nextByte f m.fbpp above done x))
      else .next (s.storeByte x (nextByte f m.fbpp above done x)) := by
  have r := h.inv.runInv h.run h.mode
  rw [exec_dataByte x h.run (r.row_ne h.pend) h.pend h.phase h.ftype, dataByte]
  simp only [show State.mode? { s with inByte := x } = some m from h.mode, h.reconstruct_eq x, h.storeByte_col]
  rfl

theorem State.Filling.holds_storeByte {s : State} {m : Mode} {f : FilterType} {above done : List Byte}
    (h : s.Filling m f above done) (x v : Byte) : Memory.holds (s.storeByte x v).cur (done ++ [v]) := by
  rw [State.storeByte, ← h.done_len]
  exact Memory.holds_write_append h.cur v

/-- Inside a scanline the store of a byte goes on with the filling. -/
theorem State.Filling.store {s : State} {m : Mode} {f : FilterType} {above done : List Byte}
    (h : s.Filling m f above done) (x v : Byte) (hlt : done.length + 1 < m.rowBytes s.cfgWidth) :
    (s.storeByte x v).Filling m f above (done ++ [v]) := by
  have r := h.inv.runInv h.run h.mode
  have hcol := h.storeByte_col x v
  have hcur := h.holds_storeByte x v
  have hlen : (done ++ [v]).length = (s.storeByte x v).col.toNat := by rw [hcol]; simp
  exact {
    inv := { h.inv with
      cur_wf := Memory.wf_write _ _ _ h.inv.cur_wf
      cur_below := Memory.below_write h.inv.cur_below (Nat.lt_of_lt_of_le r.col_lt r.capacity)
      filt_col := fun hf => absurd (h.phase.symm.trans hf) (by decide)
      idle_clean := fun hi => absurd (h.run.symm.trans hi) (by decide)
      running := fun _ => ⟨m, { r with
        col_lt := by rw [hcol]; exact hlt
        cur_full := hlen ▸ hcur.full }⟩ }
    run := h.run
    mode := h.mode
    pend := h.pend
    phase := h.phase
    ftype := h.ftype
    above_len := h.above_len
    prior := h.prior
    done_len := hlen
    cur := hcur }

/-- The state in which a completed scanline `prior`, reconstructed in `cur`, starts to drain, before its first pixel
is extracted (42_defilter.md R211). -/
def State.completed (s : State) (x : Byte) (cur prior : List Host.Cell) : State :=
  { s with
    inByte := x, cur := cur, prior := prior, row := s.row + 1, phase := .filt, col := 0, pend := true, xcol := 0 }

/-- After a scanline's completion its first pixel is due. -/
theorem pixelDue_completed {s : State} {m : Mode} {cur prior : List Host.Cell} (x : Byte) (h : s.Inv)
    (hst : s.st = .run) (hm : s.mode? = some m) (hp : s.pend = false)
    (hcur : Memory.wf cur = true ∧ Memory.below cur s.config.rowBufBytes = true)
    (hprior : Memory.wf prior = true ∧ Memory.below prior s.config.rowBufBytes = true)
    (hfull : Memory.full prior (m.rowBytes s.cfgWidth)) : (s.completed x cur prior).PixelDue m := by
  have r := h.runInv hst hm
  obtain ⟨hrow, hcursor, hpixels⟩ := r.filling hp
  have hheight := (legalDim_iff _).1 r.height
  have hwidth : (0 : Word).toNat < s.cfgWidth.toNat := ((legalDim_iff _).1 r.width).1
  have hsucc : (s.row + 1).toNat = s.row.toNat + 1 := toNat_add_one (by omega)
  have hpos : 1 ≤ (s.row + 1).toNat := hsucc ▸ Nat.le_add_left 1 _
  have hpred : (s.row + 1).toNat - 1 = s.row.toNat := by omega
  refine ⟨hm, ?_, fun p k hk => ?_⟩
  · exact {
      run := hst
      row_pos := hpos
      xcol_lt := hwidth
      cursor := by
        show s.cursor.toNat = ((s.row + 1).toNat - 1) * m.rowBytes s.cfgWidth * 8 + (0 : Word).toNat * m.bitsPP
        rw [hpred, hcursor]; simp
      no_wrap := hsucc ▸ r.no_wrap h hrow
      capacity := r.capacity
      prior_full := hfull
      palLen_le := h.palLen_le
      pal_full := h.pal_full }
  · exact { h with
      cur_wf := hcur.1
      cur_below := hcur.2
      prior_wf := hprior.1
      prior_below := hprior.2
      filt_col := fun _ => rfl
      out_held := fun _ => ⟨hst, rfl⟩
      out_clear := nofun
      pend_active := fun _ => .inl hst
      idle_clean := fun hi => absurd (hst.symm.trans hi) (by decide)
      running := fun _ => ⟨m, { r with
        row_le := hsucc ▸ hrow
        col_lt := Nat.zero_lt_of_lt r.col_lt
        prior_full := hfull
        cur_full := fun i hi => absurd hi (Nat.not_lt_zero i)
        ftype_legal := nofun
        filling := nofun
        draining := fun _ => ⟨hpos, hwidth, rfl, rfl, hk, by
          show s.pixels.toNat = ((s.row + 1).toNat - 1) * s.cfgWidth.toNat + (0 : Word).toNat
          rw [hpred, hpixels]; simp⟩ }⟩ }

/-- The last byte of a scanline completes it, and its first pixel is due. -/
theorem State.Filling.complete {s : State} {m : Mode} {f : FilterType} {above done : List Byte}
    (h : s.Filling m f above done) (x v : Byte) (hlast : done.length + 1 = m.rowBytes s.cfgWidth) :
    ∃ cur prior, completeRow (m.rowBytes s.cfgWidth) (s.storeByte x v) = extractNext (s.completed x cur prior) ∧
      Memory.holds prior (done ++ [v]) ∧ (s.completed x cur prior).PixelDue m := by
  have r := h.inv.runInv h.run h.mode
  have hcur := h.holds_storeByte x v
  have hlen : (done ++ [v]).length = m.rowBytes s.cfgWidth := by simp [hlast]
  obtain ⟨prior, hcopy⟩ := rowCopy_exists (c := s.config) s.prior r.capacity (hlen ▸ hcur.full)
  have hprior : Memory.holds prior (done ++ [v]) := by
    intro i hi
    rw [rowCopy_read hcopy, if_pos (hlen ▸ hi), hcur i hi]
  obtain ⟨vs, hvs, -, rfl⟩ := rowCopy_ok.1 hcopy
  exact ⟨_, _, completeRow_eq hcopy, hprior, pixelDue_completed x h.inv h.run h.mode h.pend
    ⟨Memory.wf_write _ _ _ h.inv.cur_wf,
      Memory.below_write h.inv.cur_below (Nat.lt_of_lt_of_le r.col_lt r.capacity)⟩
    ⟨Memory.wf_fill _ _ h.inv.prior_wf, Memory.below_fill h.inv.prior_below (hvs ▸ r.capacity)⟩
    (hlen ▸ hprior.full)⟩

/-! ### The data bytes of a scanline -/

theorem execAll_cons_next {i : Instr} {s t : State} (is : List Instr) (h : exec i s = .next t) :
    execAll (i :: is) s = execAll is t := by
  rw [execAll, h]

@[simp] theorem execAll_singleton (i : Instr) (s : State) : execAll [i] s = exec i s := by
  rw [execAll]
  cases exec i s <;> rfl

/-- The data bytes that a scanline still wants complete it as the reference reconstructs it, and its first pixel is
due (42_defilter.md R203 to R211). -/
theorem State.Filling.execAll_bytes {m : Mode} {f : FilterType} {above : List Byte} (x : Byte) (xs : List Byte)
    {s : State} {done : List Byte} (h : s.Filling m f above done)
    (hlen : done.length + (x :: xs).length = m.rowBytes s.cfgWidth) :
    ∃ b cur prior,
      execAll ((x :: xs).map (fun b => .wrInData b 0)) s = extractNext (s.completed b cur prior) ∧
      Memory.holds prior (defilterFrom f m.fbpp above done (x :: xs)) ∧ (s.completed b cur prior).PixelDue m := by
  induction xs generalizing s done x with
  | nil =>
    have hlast : done.length + 1 = m.rowBytes s.cfgWidth := hlen
    obtain ⟨cur, prior, hc, hprior, hdue⟩ := h.complete x (nextByte f m.fbpp above done x) hlast
    refine ⟨x, cur, prior, ?_, hprior, hdue⟩
    rw [List.map_singleton, execAll_singleton, h.exec_byte, if_pos hlast, hc]
  | cons y ys ih =>
    simp only [List.length_cons] at hlen ih
    have hs := h.store x (nextByte f m.fbpp above done x) (by omega)
    obtain ⟨b, cur, prior, hc, hprior, hdue⟩ := ih y hs (by
      show (done ++ [_]).length + (ys.length + 1) = m.rowBytes s.cfgWidth
      rw [List.length_append, List.length_singleton]; omega)
    refine ⟨b, cur, prior, ?_, hprior, hdue⟩
    rw [List.map_cons, execAll_cons_next _ (by rw [h.exec_byte, if_neg (by omega)]), hc]
    rfl

/-- A scanline streamed in: the state before its first pixel is extracted (20_memory.md R74). -/
theorem execAll_scanInstrs {s : State} {m : Mode} (f : FilterType) {xs : List Byte} (h : s.Inv)
    (hst : s.st = .run) (hm : s.mode? = some m) (hp : s.pend = false) (hph : s.phase = .filt)
    (hlen : xs.length = m.rowBytes s.cfgWidth) :
    ∃ b cur prior,
      execAll (scanInstrs f xs) s = extractNext ((s.latchFilter (codeOf f)).completed b cur prior) ∧
      Memory.holds prior (defilterRow f m.fbpp (s.priorBytes (m.rowBytes s.cfgWidth)) xs) ∧
      ((s.latchFilter (codeOf f)).completed b cur prior).PixelDue m := by
  have r := h.runInv hst hm
  cases xs with
  | nil => exact absurd r.col_lt (by rw [← hlen]; exact Nat.not_lt_zero _)
  | cons x xs =>
    obtain ⟨b, cur, prior, hc, hrest⟩ := (filling_latchFilter (f := f) h hst hm hp).execAll_bytes x xs
      (by rw [List.length_nil, Nat.zero_add]; exact hlen)
    refine ⟨b, cur, prior, ?_, hrest⟩
    rw [scanInstrs, List.map_cons, execAll_cons_next _ (exec_filterByte hst (r.row_ne hp) hp hph), hc]

end Sys2Proof.Machine
end

section
/-! SUPPORT. A scanline drained: its pixels in raster order, by POP after POP (40_host_interface.md R141). -/

namespace Sys2Proof.Machine

theorem exec_pop {s : State} (hst : s.st = .run) (ho : s.outValid = true) : exec (.pop 0) s = popPixel s := by
  show execPop 0 s = _
  simp [execPop, hst, ho]

/-- The state in which a POP inside a scanline invokes ExtractNext (40_host_interface.md R141). -/
def State.popped (s : State) : State :=
  { s with pixels := s.pixels + 1, outValid := false, out := Rgba16.zero, xcol := s.xcol + 1 }

/-- The state after the last POP of a scanline: the next scanline awaited, or the decode done, with the cursor at `k`
and `n` pixels popped (40_host_interface.md R141). -/
def State.drained (s : State) (k n : Wide) : State :=
  { s with
    pixels := n, outValid := false, out := Rgba16.zero, pend := false, xcol := 0, cursor := k,
    st := if s.row = s.cfgHeight then .done else .run }

theorem State.drained_st (s : State) (k n : Wide) :
    (s.row = s.cfgHeight ∧ (s.drained k n).st = .done) ∨ (s.row ≠ s.cfgHeight ∧ (s.drained k n).st = .run) := by
  by_cases h : s.row = s.cfgHeight
  · exact .inl ⟨h, if_pos h⟩
  · exact .inr ⟨h, if_neg h⟩

/-- The pixel count of a decode does not wrap. -/
theorem State.RunInv.pixels_add_one {s : State} {m : Mode} (r : s.RunInv m) (hp : s.pend = true) :
    (s.pixels + 1).toNat = (s.row.toNat - 1) * s.cfgWidth.toNat + (s.xcol.toNat + 1) := by
  obtain ⟨-, hxcol, -, -, -, hpixels⟩ := r.draining hp
  have hrow := s.row.isLt
  have hwidth := s.cfgWidth.isLt
  have : (s.row.toNat - 1) * s.cfgWidth.toNat ≤ (2 ^ 32 - 2) * (2 ^ 32 - 1) := Nat.mul_le_mul (by omega) (by omega)
  rw [toNat_add_one (by omega), hpixels]
  omega

/-- After a POP inside a scanline the next pixel is due. -/
theorem pixelDue_popped {s : State} {m : Mode} (h : s.Inv) (hst : s.st = .run) (hm : s.mode? = some m)
    (hp : s.pend = true) (hmore : s.xcol.toNat + 1 < s.cfgWidth.toNat) : s.popped.PixelDue m := by
  have r := h.runInv hst hm
  obtain ⟨hrow, -, -, hphase, hcursor, -⟩ := r.draining hp
  have hwidth := s.cfgWidth.isLt
  have hsucc : (s.xcol + 1).toNat = s.xcol.toNat + 1 := toNat_add_one (by omega)
  refine ⟨hm, ?_, fun p k hk => ?_⟩
  · exact {
      run := hst
      row_pos := hrow
      xcol_lt := hsucc ▸ hmore
      cursor := by
        rw [State.cursorAfter, if_neg (by omega), ← hsucc] at hcursor
        exact hcursor
      no_wrap := r.no_wrap h r.row_le
      capacity := r.capacity
      prior_full := r.prior_full
      palLen_le := h.palLen_le
      pal_full := h.pal_full }
  · exact { h with
      out_held := fun _ => ⟨hst, hp⟩
      out_clear := nofun
      idle_clean := fun hi => absurd (hst.symm.trans hi) (by decide)
      running := fun _ => ⟨m, { r with
        filling := fun hd => absurd (hp.symm.trans hd) (by decide)
        draining := fun _ => ⟨hrow, hsucc ▸ hmore, rfl, hphase, hk, hsucc ▸ r.pixels_add_one hp⟩ }⟩ }

/-- At the last pixel of a scanline the cursor and the pixel count reach the end of the scanline. -/
theorem State.RunInv.scanline_end {s : State} {m : Mode} (r : s.RunInv m) (hp : s.pend = true)
    (hlast : s.xcol.toNat + 1 = s.cfgWidth.toNat) :
    s.cursor.toNat = s.row.toNat * m.rowBytes s.cfgWidth * 8 ∧
      (s.pixels + 1).toNat = s.row.toNat * s.cfgWidth.toNat := by
  obtain ⟨hrow, -, -, -, hcursor, -⟩ := r.draining hp
  rw [State.cursorAfter, if_pos hlast] at hcursor
  refine ⟨hcursor, ?_⟩
  rw [r.pixels_add_one hp, hlast, ← Nat.succ_mul, Nat.succ_eq_add_one, Nat.sub_add_cancel hrow]

/-- After the last POP of a scanline the invariant holds. -/
theorem inv_drained {s : State} {m : Mode} {k n : Wide} (h : s.Inv) (hst : s.st = .run) (hm : s.mode? = some m)
    (hk : k.toNat = s.row.toNat * m.rowBytes s.cfgWidth * 8) (hn : n.toNat = s.row.toNat * s.cfgWidth.toNat) :
    (s.drained k n).Inv := by
  have r := h.runInv hst hm
  have hend := s.drained_st k n
  exact { h with
    out_held := nofun
    out_clear := fun _ => rfl
    pend_active := nofun
    no_error := fun _ => h.no_error (by rw [hst]; decide)
    error_code := fun he => absurd hend (by simp [he])
    idle_clean := fun hi => absurd hend (by simp [hi])
    running := fun hr => ⟨m, { r with
      filling := fun _ => by
        have hne : s.row ≠ s.cfgHeight := by simpa [hr] using hend
        exact ⟨Nat.lt_of_le_of_ne r.row_le fun heq => hne (BitVec.eq_of_toNat_eq heq), hk, hn⟩
      draining := nofun }⟩ }

/-- The pixel that a host reads while a scanline drains is that of column xcol. -/
theorem heldPixel_of_draining {s : State} {m : Mode} {p : Rgba16} (h : s.Inv) (hpix : s.PixelInv) (hst : s.st = .run)
    (hm : s.mode? = some m) (hp : s.pend = true) (hx : s.pixelAt m s.xcol.toNat = some p) :
    s.outValid = true ∧ s.heldPixel? = some p := by
  obtain ⟨-, -, ho, -⟩ := (h.runInv hst hm).draining hp
  exact ⟨ho, by rw [State.heldPixel?, if_pos ho, ← hpix ho m hm, hx]⟩

theorem takePixels_succ {n : Nat} {s t : State} {p : Rgba16} (hp : s.heldPixel? = some p)
    (he : exec (.pop 0) s = .next t) :
    takePixels (n + 1) s = (takePixels n t).map (fun r => (p :: r.1, r.2)) := by
  rw [takePixels, hp, he]

/-- A draining scanline gives the pixels `p :: ps` of the columns from xcol on, and is drained then (20_memory.md
R75). -/
theorem takePixels_draining {m : Mode} (ps : List Rgba16) {p : Rgba16} {s : State} (h : s.Inv) (hpix : s.PixelInv)
    (hst : s.st = .run) (hm : s.mode? = some m) (hp : s.pend = true)
    (hlen : s.xcol.toNat + (p :: ps).length = s.cfgWidth.toNat)
    (hps : ∀ i < (p :: ps).length, s.pixelAt m (s.xcol.toNat + i) = (p :: ps)[i]?) :
    ∃ k n : Wide, takePixels (p :: ps).length s = some (p :: ps, s.drained k n) ∧ (s.drained k n).Inv ∧
      k.toNat = s.row.toNat * m.rowBytes s.cfgWidth * 8 ∧ n.toNat = s.row.toNat * s.cfgWidth.toNat := by
  induction ps generalizing s p with
  | nil =>
    obtain ⟨ho, hheld⟩ := heldPixel_of_draining h hpix hst hm hp (hps 0 (by simp))
    have hlast : s.xcol.toNat + 1 = s.cfgWidth.toNat := hlen
    obtain ⟨hcursor, hpixels⟩ := (h.runInv hst hm).scanline_end hp hlast
    refine ⟨s.cursor, s.pixels + 1, ?_, inv_drained h hst hm hcursor hpixels, hcursor, hpixels⟩
    have he : exec (.pop 0) s = .next (s.drained s.cursor (s.pixels + 1)) := by
      rw [exec_pop hst ho, popPixel_last (by omega), hst]; rfl
    rw [List.length_singleton, takePixels_succ hheld he]
    rfl
  | cons q ps ih =>
    obtain ⟨ho, hheld⟩ := heldPixel_of_draining h hpix hst hm hp (hps 0 (by simp))
    rw [List.length_cons, List.length_cons] at hlen
    have hmore : s.xcol.toNat + 1 < s.cfgWidth.toNat := by omega
    have hsucc : (s.xcol + 1).toNat = s.xcol.toNat + 1 := toNat_add_one (by have := s.cfgWidth.isLt; omega)
    have hq : s.popped.pixelAt m s.popped.xcol.toNat = some q := hsucc ▸ hps 1 (by simp)
    obtain ⟨k, hext, hinv, hpix'⟩ := (pixelDue_popped h hst hm hp hmore).extractNext_some hq
    have he : exec (.pop 0) s = .next (s.popped.withPixel q k) := by
      rw [exec_pop hst ho, popPixel_more hmore]; exact hext
    have hrest : ∀ i < (q :: ps).length, s.pixelAt m ((s.xcol + 1).toNat + i) = (q :: ps)[i]? := by
      intro i hi
      have := hps (i + 1) (Nat.succ_lt_succ hi)
      rwa [List.getElem?_cons_succ, Nat.add_comm i, ← Nat.add_assoc, ← hsucc] at this
    obtain ⟨k', n, htake, hend⟩ := ih hinv hpix' hst hm hp
      (by show (s.xcol + 1).toNat + (ps.length + 1) = s.cfgWidth.toNat; omega) hrest
    refine ⟨k', n, ?_, hend⟩
    rw [List.length_cons, takePixels_succ hheld he, htake]
    rfl

end Sys2Proof.Machine
end

section
/-! SUPPORT. The decode of an image, scanline by scanline. -/

namespace Sys2Proof.Machine

/-! ### The pixels of a scanline in the reference decode -/

/-- A sample is read from bytes of its own scanline only. -/
theorem sampleAt_congr {byte byte' : Nat → Byte} {d : Depth} {n q : Nat} (h : ∀ i < n, byte i = byte' i)
    (hq : q + d.bits ≤ n * 8) : sampleAt byte d q = sampleAt byte' d q := by
  have hbits : 1 ≤ d.bits := by cases d <;> decide
  have h0 : byte (q / 8) = byte' (q / 8) := h _ (by omega)
  cases d
  case d16 =>
    have h1 : byte (q / 8 + 1) = byte' (q / 8 + 1) := h _ (by simp only [Depth.bits] at hq; omega)
    rw [sampleAt, sampleAt, h0, h1]
  all_goals rw [sampleAt, sampleAt, h0]

/-- The samples of a pixel are read from bytes of its own scanline only. -/
theorem samplesAt_congr {byte byte' : Nat → Byte} {m : Mode} {w : Word} {x : Nat} (hx : x < w.toNat)
    (h : ∀ i < m.rowBytes w, byte i = byte' i) : samplesAt byte m x = samplesAt byte' m x := by
  apply List.map_congr_left
  intro k hk
  have hfit := pixel_fits m w x hx
  have hk : (k + 1) * m.depth.bits ≤ m.bitsPP := Nat.mul_le_mul_right _ (List.mem_range.1 hk)
  rw [Nat.succ_mul] at hk
  exact sampleAt_congr h (by omega)

/-- A list of results that all exist: one for each element, in order. -/
theorem mapM_eq_some {α β : Type} {f : α → Option β} {l : List α} {rs : List β} (h : l.mapM f = some rs) :
    rs.length = l.length ∧ ∀ i (hi : i < l.length), f l[i] = rs[i]? := by
  induction l generalizing rs with
  | nil =>
    obtain rfl : [] = rs := Option.some.inj h
    exact ⟨rfl, fun i hi => absurd hi (Nat.not_lt_zero i)⟩
  | cons a l ih =>
    rw [List.mapM_cons] at h
    obtain ⟨r, hr, h⟩ := Option.bind_eq_some_iff.1 h
    obtain ⟨rs', hrs, h⟩ := Option.bind_eq_some_iff.1 h
    obtain rfl : r :: rs' = rs := Option.some.inj h
    obtain ⟨hlen, hall⟩ := ih hrs
    refine ⟨by simp [hlen], fun i hi => ?_⟩
    cases i with
    | zero => exact hr
    | succ i => exact hall i (Nat.lt_of_succ_lt_succ hi)

/-- The reference's pixels of a scanline are those of the columns of `prior`, when `prior` holds it. -/
theorem pixelAt_of_rowPixels {s : State} {m : Mode} {bytes : List Byte} {ps : List Rgba16}
    (hprior : Memory.holds s.prior bytes) (hlen : bytes.length = m.rowBytes s.cfgWidth)
    (h : rowPixels s.pal s.palLen m s.cfgWidth.toNat bytes = some ps) :
    ps.length = s.cfgWidth.toNat ∧ ∀ i < s.cfgWidth.toNat, s.pixelAt m i = ps[i]? := by
  obtain ⟨hps, hall⟩ := mapM_eq_some h
  refine ⟨hps.trans List.length_range, fun i hi => ?_⟩
  rw [← hall i (by rwa [List.length_range]), List.getElem_range, State.pixelAt,
    samplesAt_congr hi fun j hj => rowByte_of_holds hprior (hlen ▸ hj)]

/-! ### The decode of an image -/

/-- `t` is `s` with one scanline more decoded: `bytes`, which the next one is reconstructed below. -/
structure State.DecodesLine (s t : State) (bytes : List Byte) : Prop where
  inv : t.Inv
  st : t.st = if s.row + 1 = s.cfgHeight then .done else .run
  mode : t.mode? = s.mode?
  width : t.cfgWidth = s.cfgWidth
  height : t.cfgHeight = s.cfgHeight
  pal : t.pal = s.pal
  palLen : t.palLen = s.palLen
  row : t.row.toNat = s.row.toNat + 1
  pend : t.pend = false
  phase : t.phase = .filt
  prior : Memory.holds t.prior bytes
  pixels : t.pixels.toNat = (s.row.toNat + 1) * s.cfgWidth.toNat

/-- One scanline streamed in and drained: its reference pixels, and one scanline more decoded (20_memory.md R74,
R75). -/
theorem decode_scanline {s : State} {m : Mode} {f : FilterType} {xs bytes : List Byte} {ps : List Rgba16}
    (h : s.Inv) (hst : s.st = .run) (hm : s.mode? = some m) (hp : s.pend = false) (hph : s.phase = .filt)
    (hlen : xs.length = m.rowBytes s.cfgWidth)
    (hbytes : defilterRow f m.fbpp (s.priorBytes (m.rowBytes s.cfgWidth)) xs = bytes)
    (hps : rowPixels s.pal s.palLen m s.cfgWidth.toNat bytes = some ps) :
    ∃ t u, execAll (scanInstrs f xs) s = .next t ∧ takePixels s.cfgWidth.toNat t = some (ps, u) ∧
      s.DecodesLine u bytes := by
  have r := h.runInv hst hm
  obtain ⟨b, cur, prior, hscan, hprior, hdue⟩ := execAll_scanInstrs f h hst hm hp hph hlen
  rw [hbytes] at hprior
  have hblen : bytes.length = m.rowBytes s.cfgWidth := by rw [← hbytes, length_defilterRow, hlen]
  obtain ⟨hlength, hpixels⟩ :=
    pixelAt_of_rowPixels (s := (s.latchFilter (codeOf f)).completed b cur prior) hprior hblen hps
  have hwidth := (legalDim_iff _).1 r.width
  have hrow : (s.row + 1).toNat = s.row.toNat + 1 :=
    toNat_add_one (by have := (r.filling hp).1; have := s.cfgHeight.isLt; omega)
  cases ps with
  | nil => exact absurd (hlength ▸ hwidth.1) (by decide)
  | cons p ps =>
    obtain ⟨k₀, hext, hinv, hpix⟩ := hdue.extractNext_some (hpixels 0 hwidth.1)
    obtain ⟨k, n, htake, hinv', -, hn⟩ := takePixels_draining ps hinv hpix hst hm rfl
      ((Nat.zero_add _).trans hlength) fun i hi => (Nat.zero_add i).symm ▸ hpixels i (hlength ▸ hi)
    refine ⟨_, _, hscan.trans hext, hlength ▸ htake, ?_⟩
    exact {
      inv := hinv'
      st := rfl
      mode := rfl
      width := rfl
      height := rfl
      pal := rfl
      palLen := rfl
      row := hrow
      pend := rfl
      phase := rfl
      prior := hprior
      pixels := hn.trans (congrArg (· * s.cfgWidth.toNat) hrow) }

theorem decodeScanlines_cons {width : Nat} {f : FilterType} {xs : List Byte} {rest : List (FilterType × List Byte)}
    {s t u v : State} {ps qs : List Rgba16} (hscan : execAll (scanInstrs f xs) s = .next t)
    (htake : takePixels width t = some (ps, u)) (hrest : decodeScanlines width rest u = some (qs, v)) :
    decodeScanlines width ((f, xs) :: rest) s = some (ps ++ qs, v) := by
  rw [decodeScanlines, hscan]
  dsimp only
  rw [htake]
  dsimp only
  rw [hrest]
  rfl

theorem imagePixels_cons {pal : List (Nat × Rgba16)} {palLen width : Nat} {m : Mode} {above : List Byte}
    {f : FilterType} {xs : List Byte} {rest : List (FilterType × List Byte)} {ps : List Rgba16}
    (h : imagePixels pal palLen m width above ((f, xs) :: rest) = some ps) :
    ∃ qs rs, rowPixels pal palLen m width (defilterRow f m.fbpp above xs) = some qs ∧
      imagePixels pal palLen m width (defilterRow f m.fbpp above xs) rest = some rs ∧ qs ++ rs = ps := by
  obtain ⟨qs, hqs, h⟩ := Option.bind_eq_some_iff.1 h
  obtain ⟨rs, hrs, h⟩ := Option.bind_eq_some_iff.1 h
  exact ⟨qs, rs, hqs, hrs, Option.some.inj h⟩

/-- The scanlines that a decode still wants, streamed in and drained one after another: the reference's pixels, and
the decode done. -/
theorem decodeScanlines_rest {m : Mode} (lines : List (FilterType × List Byte)) {s : State} {ps : List Rgba16}
    (h : s.Inv) (hst : s.st = .run) (hm : s.mode? = some m) (hp : s.pend = false) (hph : s.phase = .filt)
    (hcount : s.row.toNat + lines.length = s.cfgHeight.toNat)
    (hlen : ∀ l ∈ lines, l.2.length = m.rowBytes s.cfgWidth)
    (hps : imagePixels s.pal s.palLen m s.cfgWidth.toNat (s.priorBytes (m.rowBytes s.cfgWidth)) lines = some ps) :
    ∃ t, decodeScanlines s.cfgWidth.toNat lines s = some (ps, t) ∧ t.st = .done ∧
      t.pixels.toNat = s.cfgWidth.toNat * s.cfgHeight.toNat := by
  induction lines generalizing s ps with
  | nil => exact absurd ((h.runInv hst hm).filling hp).1 (by rw [← hcount]; simp)
  | cons l rest ih =>
    obtain ⟨f, xs⟩ := l
    obtain ⟨qs, rs, hqs, hrs, rfl⟩ := imagePixels_cons hps
    have hxs : xs.length = m.rowBytes s.cfgWidth := hlen _ List.mem_cons_self
    obtain ⟨t, u, hscan, htake, hu⟩ := decode_scanline h hst hm hp hph hxs rfl hqs
    rw [List.length_cons] at hcount
    have hrow : (s.row + 1).toNat = s.row.toNat + 1 :=
      toNat_add_one (by have := s.cfgHeight.isLt; omega)
    cases rest with
    | nil =>
      have hheight : s.row.toNat + 1 = s.cfgHeight.toNat := hcount
      obtain rfl : [] = rs := Option.some.inj hrs
      refine ⟨u, decodeScanlines_cons hscan htake rfl, ?_, ?_⟩
      · rw [hu.st, if_pos (BitVec.eq_of_toNat_eq (hrow.trans hheight))]
      · rw [hu.pixels, hheight, Nat.mul_comm]
    | cons l' rest =>
      rw [List.length_cons] at hcount
      have hne : s.row + 1 ≠ s.cfgHeight := fun heq => by rw [← heq, hrow] at hcount; omega
      have habove := priorBytes_of_holds hu.prior
      rw [length_defilterRow, hxs] at habove
      obtain ⟨v, hv, hdone, hpixels⟩ := ih hu.inv (by rw [hu.st, if_neg hne]) (hu.mode.trans hm) hu.pend hu.phase
        (by rw [hu.row, hu.height, List.length_cons]; omega)
        (fun l hl => hu.width ▸ hlen l (List.mem_cons_of_mem _ hl))
        (by rw [hu.pal, hu.palLen, hu.width, habove]; exact hrs)
      rw [hu.width] at hv hpixels
      exact ⟨v, decodeScanlines_cons hscan htake hv, hdone, hu.height ▸ hpixels⟩

/-- Settles O58: the scanlines of an image are decoded one after another, by induction over them. -/
theorem imageDecoded : Obligations.ImageDecoded := by
  intro s m lines ps h hst hm hrow hp hph hcount hlen hps
  exact decodeScanlines_rest lines h hst hm hp hph (by rw [hrow]; simpa using hcount) hlen hps

end Sys2Proof.Machine
end

section
/-! SUPPORT. What an update of the state keeps of the invariant: the memories' part, which no error and no InitRun
touches, and the whole invariant where a transaction ends outside RUN or starts a decode. -/

namespace Sys2Proof.Machine

/-- The part of the invariant that holds in every block state and in the middle of a transaction: the parameters,
the memories, and the column outside phase DATA (10_state.md R55). -/
structure State.MemInv (s : State) : Prop where
  config : s.config.wf
  pal_wf : Memory.wf s.pal = true
  prior_wf : Memory.wf s.prior = true
  cur_wf : Memory.wf s.cur = true
  pal_below : Memory.below s.pal 256 = true
  prior_below : Memory.below s.prior s.config.rowBufBytes = true
  cur_below : Memory.below s.cur s.config.rowBufBytes = true
  palLen_le : s.palLen ≤ 256
  pal_full : Memory.full s.pal s.palLen
  filt_col : s.phase = .filt → s.col = 0

theorem State.Inv.memInv {s : State} (h : s.Inv) : s.MemInv := { h with }

/-- A raised error has the invariant, whatever the transaction had done before (60_exceptions.md R336). -/
theorem State.MemInv.raise {s : State} {kind : ErrKind} {cause : BitVec 4} (h : s.MemInv) (r : Word) (n : Wide)
    (hc : raisedCode kind.code cause = true) : (s.raise kind cause r n).Inv :=
  { h with
    out_held := nofun
    out_clear := fun _ => rfl
    pend_active := fun _ => .inr rfl
    no_error := fun hne => absurd rfl hne
    error_code := fun _ => hc
    idle_clean := nofun
    running := nofun }

theorem State.MemInv.initRun {s : State} (h : s.MemInv) : s.initRun.clearError.MemInv :=
  { h with filt_col := fun _ => rfl }

/-- ABORT leads to the invariant from every state (40_host_interface.md R138). -/
theorem State.MemInv.abort {s : State} (h : s.MemInv) : s.abort.Inv :=
  { h.initRun with
    out_held := nofun
    out_clear := fun _ => rfl
    pend_active := nofun
    no_error := fun _ => ⟨rfl, rfl, rfl, rfl⟩
    error_code := nofun
    idle_clean := fun _ => rfl
    running := nofun }

/-- The invariant holds after reset (70_reset_and_hazards.md R370). -/
theorem inv_resetWith {c : Config} (h : c.wf) : (State.resetWith c).Inv where
  config := h
  pal_wf := rfl
  prior_wf := rfl
  cur_wf := rfl
  pal_below := rfl
  prior_below := rfl
  cur_below := rfl
  palLen_le := Nat.zero_le _
  pal_full := fun i hi => absurd hi (Nat.not_lt_zero i)
  filt_col := fun _ => rfl
  out_held := nofun
  out_clear := fun _ => rfl
  pend_active := nofun
  no_error := fun _ => ⟨rfl, rfl, rfl, rfl⟩
  error_code := nofun
  idle_clean := fun _ => rfl
  running := nofun

theorem inv_hardReset {s : State} (h : s.Inv) : s.hardReset.Inv := (inv_resetWith h.config).of_queue s.pending 0

/-! ### START -/

/-- A refused START is an error raised after InitRun (40_host_interface.md R137). -/
theorem refusedStart_eq (s : State) (kind : ErrKind) (cause : BitVec 4) :
    refusedStart s kind.code cause = s.initRun.clearError.raise kind cause 0 0 := rfl

/-- A filled memory holds the filled values. -/
theorem Memory.holds_fill {α : Type} (m : List (Nat × α)) (vs : List α) : Memory.holds (Memory.fill m vs) vs :=
  fun i hi => by rw [Memory.read?_fill, if_pos hi]

theorem rowBytes_pos (m : Mode) {w : Word} (h : legalDim w = true) : 0 < m.rowBytes w := by
  have hfit := pixel_fits m w 0 ((legalDim_iff w).1 h).1
  have hpos := (bitsPP_pos m).1
  omega

/-- A decode starts with the invariant: its first scanline is awaited, below an all-zero row (40_host_interface.md
R137). -/
theorem State.MemInv.start {s : State} {m : Mode} (h : s.MemInv) (hm : s.mode? = some m) (hi : s.cfgInterlace = 0)
    (hw : legalDim s.cfgWidth = true) (hh : legalDim s.cfgHeight = true)
    (hcap : m.rowBytes s.cfgWidth ≤ s.config.rowBufBytes) :
    (startedRun s (Memory.fill s.prior (List.replicate (m.rowBytes s.cfgWidth) 0))).Inv := by
  have hfull := (Memory.holds_fill s.prior (List.replicate (m.rowBytes s.cfgWidth) 0)).full
  rw [List.length_replicate] at hfull
  exact { h.initRun with
    prior_wf := Memory.wf_fill _ _ h.prior_wf
    prior_below := Memory.below_fill h.prior_below (by rwa [List.length_replicate])
    out_held := nofun
    out_clear := fun _ => rfl
    pend_active := nofun
    no_error := fun _ => ⟨rfl, rfl, rfl, rfl⟩
    error_code := nofun
    idle_clean := nofun
    running := fun _ => ⟨m, {
      mode := hm
      interlace := hi
      width := hw
      height := hh
      capacity := hcap
      row_le := Nat.zero_le _
      col_lt := rowBytes_pos m hw
      prior_full := hfull
      cur_full := fun i hlt => absurd hlt (Nat.not_lt_zero i)
      ftype_legal := nofun
      filling := fun _ => ⟨((legalDim_iff _).1 hh).1, by simp [startedRun], by simp [startedRun]⟩
      draining := nofun }⟩ }

/-! ### Configuration and palette writes -/

/-- The configuration written (40_host_interface.md R131 to R133). -/
def State.configured (s : State) (w ht : Word) (d c il : Byte) : State :=
  { s with cfgWidth := w, cfgHeight := ht, cfgDepth := d, cfgCtype := c, cfgInterlace := il }

/-- The palette written (40_host_interface.md R134, R140). -/
def State.withPalette (s : State) (pal : List (Nat × Rgba16)) (n : Nat) : State := { s with pal := pal, palLen := n }

theorem not_run_of_start {s : State} (h : s.st = .idle ∨ s.st = .done) : s.st ≠ .run := by
  rcases h with h | h <;> rw [h] <;> decide

theorem State.Inv.configured {s : State} (h : s.Inv) (hst : s.st = .idle ∨ s.st = .done) (w ht : Word)
    (d c il : Byte) : (s.configured w ht d c il).Inv :=
  { h with
    idle_clean := fun hi => by rw [← h.idle_clean hi]; rfl
    running := fun hr => absurd hr (not_run_of_start hst) }

/-- A palette is one of at most 256 entries, each written, in its canonical form. -/
structure PaletteOk (pal : List (Nat × Rgba16)) (n : Nat) : Prop where
  wf : Memory.wf pal = true
  below : Memory.below pal 256 = true
  len_le : n ≤ 256
  full : Memory.full pal n

theorem State.Inv.withPalette {s : State} {pal : List (Nat × Rgba16)} {n : Nat} (h : s.Inv)
    (hst : s.st = .idle ∨ s.st = .done) (hp : PaletteOk pal n) : (s.withPalette pal n).Inv :=
  { h with
    pal_wf := hp.wf
    pal_below := hp.below
    palLen_le := hp.len_le
    pal_full := hp.full
    idle_clean := fun hi => by rw [← h.idle_clean hi]; rfl
    running := fun hr => absurd hr (not_run_of_start hst) }

/-- The palette cleared: no entry is valid (40_host_interface.md R140). -/
theorem State.Inv.paletteOk_clear {s : State} (h : s.Inv) : PaletteOk s.pal 0 :=
  ⟨h.pal_wf, h.pal_below, Nat.zero_le _, fun i hi => absurd hi (Nat.not_lt_zero i)⟩

/-- An entry appended below the palette's limit (40_host_interface.md R134). -/
theorem State.Inv.paletteOk_append {s : State} (h : s.Inv) (p : Rgba16) (hlt : s.palLen < 256) :
    PaletteOk (Memory.write s.pal s.palLen p) (s.palLen + 1) where
  wf := Memory.wf_write _ _ _ h.pal_wf
  below := Memory.below_write h.pal_below hlt
  len_le := hlt
  full := fun i hi => by
    rw [Memory.read?_write]
    by_cases hp : i = s.palLen
    · rw [if_pos hp]; rfl
    · rw [if_neg hp]; exact h.pal_full i (by omega)

/-! ### A scanline that fills -/

/-- Cells that are written hold some values. -/
theorem Memory.exists_holds {α : Type} {m : List (Nat × α)} {n : Nat} (h : Memory.full m n) :
    ∃ vs : List α, vs.length = n ∧ Memory.holds m vs := by
  induction n with
  | zero => exact ⟨[], rfl, Memory.holds_nil m⟩
  | succ n ih =>
    obtain ⟨vs, rfl, hvs⟩ := ih fun i hi => h i (Nat.lt_succ_of_lt hi)
    obtain ⟨v, hv⟩ := Option.isSome_iff_exists.1 (h vs.length (Nat.lt_succ_self _))
    refine ⟨vs ++ [v], by simp, fun i hi => ?_⟩
    by_cases hlast : i = vs.length
    · simp [hlast, hv]
    · have hi : i < vs.length := by rw [List.length_append, List.length_singleton] at hi; omega
      rw [hvs i hi, List.getElem?_append_left hi]

/-- In phase DATA a scanline is filling, under the latched filter type (42_defilter.md R203). -/
theorem State.Inv.exists_filling {s : State} (h : s.Inv) (hst : s.st = .run) (hp : s.pend = false)
    (hph : s.phase = .data) : ∃ m f above done, s.Filling m f above done := by
  obtain ⟨m, r⟩ := h.running hst
  obtain ⟨f, hf⟩ := exists_codeOf (r.ftype_legal hph)
  obtain ⟨above, habove, hprior⟩ := Memory.exists_holds r.prior_full
  obtain ⟨done, hdone, hcur⟩ := Memory.exists_holds r.cur_full
  exact ⟨m, f, above, done, ⟨h, hst, r.mode, hp, hph, hf, habove, hprior, hdone, hcur⟩⟩

end Sys2Proof.Machine
end

section
/-! SUPPORT. What a transaction can lead to from a state with the invariant: said once, so that what every step keeps
is a case analysis over its outcomes. -/

namespace Sys2Proof.Machine

/-- The two states in which ExtractNext is invoked: after a POP inside a scanline, and after a scanline's completion
(40_host_interface.md R141, 42_defilter.md R211). -/
def State.HandsOn (s u : State) : Prop := u = s.popped ∨ ∃ x cur prior, u = s.completed x cur prior

/-- The states that transaction `i` can lead to from a state with the invariant. -/
inductive State.Goes (s : State) : Instr → State → Prop
  /-- The transaction has no effect here. -/
  | unchanged (i : Instr) : s.Goes i s
  | read (off : Byte) (v : Word) : s.Goes (.rd off) { s with rdData := v }
  | raised (i : Instr) {kind : ErrKind} {cause : BitVec 4} (r : Word) (n : Wide)
      (hc : raisedCode kind.code cause = true) : s.Goes i (s.raise kind cause r n)
  /-- An illegal filter-type byte, latched before its error is raised (42_defilter.md R202). -/
  | illegalFilter (x : Byte) (ig : BitVec 24) :
      s.Goes (.wrInData x ig) (State.raise { s with inByte := x, ftype := x } .format 5 s.row 0)
  | aborted (ig : BitVec 28) : s.Goes (.abort ig) s.abort
  | refused (ig : BitVec 28) {kind : ErrKind} {cause : BitVec 4} (hst : s.st = .idle ∨ s.st = .done)
      (hc : raisedCode kind.code cause = true) : s.Goes (.start ig) (refusedStart s kind.code cause)
  | started (ig : BitVec 28) {m : Mode} (hst : s.st = .idle ∨ s.st = .done) (hm : s.mode? = some m)
      (hi : s.cfgInterlace = 0) (hw : legalDim s.cfgWidth = true) (hh : legalDim s.cfgHeight = true)
      (hcap : m.rowBytes s.cfgWidth ≤ s.config.rowBufBytes) :
      s.Goes (.start ig) (startedRun s (Memory.fill s.prior (List.replicate (m.rowBytes s.cfgWidth) 0)))
  | configured (i : Instr) (hst : s.st = .idle ∨ s.st = .done) (w ht : Word) (d c il : Byte) :
      s.Goes i (s.configured w ht d c il)
  | palette (i : Instr) {pal : List (Nat × Rgba16)} {n : Nat} (hst : s.st = .idle ∨ s.st = .done)
      (hp : PaletteOk pal n) : s.Goes i (s.withPalette pal n)
  | latched (f : FilterType) (ig : BitVec 24) {m : Mode} (hst : s.st = .run) (hm : s.mode? = some m)
      (hp : s.pend = false) (hph : s.phase = .filt) : s.Goes (.wrInData (codeOf f) ig) (s.latchFilter (codeOf f))
  | stored (x v : Byte) (ig : BitVec 24) {m : Mode} {f : FilterType} {above done : List Byte}
      (h : s.Filling m f above done) (hlt : done.length + 1 < m.rowBytes s.cfgWidth) :
      s.Goes (.wrInData x ig) (s.storeByte x v)
  | extracted (i : Instr) {u : State} {m : Mode} {p : Rgba16} {k : Wide} (hu : s.HandsOn u) (hdue : u.PixelDue m)
      (hinv : (u.withPixel p k).Inv) (hpix : (u.withPixel p k).PixelInv) : s.Goes i (u.withPixel p k)
  | indexError (i : Instr) {u : State} {m : Mode} (r : Word) (n : Wide) (hu : s.HandsOn u) (hdue : u.PixelDue m) :
      s.Goes i ((u.advance m.bitsPP).raise .paletteIndex 0 r n)
  | drained (ig : BitVec 28) {m : Mode} (hst : s.st = .run) (hm : s.mode? = some m) (hp : s.pend = true)
      (hlast : s.xcol.toNat + 1 = s.cfgWidth.toNat) : s.Goes (.pop ig) (s.drained s.cursor (s.pixels + 1))

/-- The transaction takes the state to one that it can lead to: it neither faults nor is it refused. -/
def State.Proceeds (s : State) (i : Instr) : Prop := ∃ t, exec i s = .next t ∧ s.Goes i t

/-! ### What every outcome keeps -/

theorem State.HandsOn.frame {s u : State} (h : s.HandsOn u) : u.config = s.config ∧ u.pending = s.pending := by
  rcases h with rfl | ⟨x, cur, prior, rfl⟩ <;> exact ⟨rfl, rfl⟩

theorem State.PixelDue.memInv {s : State} {m : Mode} (h : s.PixelDue m) : s.MemInv :=
  { (h.inv Rgba16.zero _ (cursor_due h.due)).memInv with }

theorem State.PixelDue.indexError_inv {s : State} {m : Mode} (h : s.PixelDue m) (r : Word) (n : Wide) :
    ((s.advance m.bitsPP).raise .paletteIndex 0 r n).Inv :=
  have hadv : (s.advance m.bitsPP).MemInv := { h.memInv with }
  hadv.raise r n rfl

/-- Every outcome has the invariant. -/
theorem State.Goes.inv {s t : State} {i : Instr} (g : s.Goes i t) (h : s.Inv) : t.Inv := by
  cases g with
  | unchanged => exact h
  | read off v => exact h.of_queue s.pending v
  | raised _ r n hc => exact h.memInv.raise r n hc
  | illegalFilter x =>
    have hmem : State.MemInv { s with inByte := x, ftype := x } := { h.memInv with }
    exact hmem.raise s.row 0 rfl
  | aborted => exact h.memInv.abort
  | refused ig hst hc => exact h.memInv.initRun.raise 0 0 hc
  | started ig hst hm hi hw hh hcap => exact h.memInv.start hm hi hw hh hcap
  | configured _ hst => exact h.configured hst ..
  | palette _ hst hp => exact h.withPalette hst hp
  | latched f _ hst hm hp => exact (filling_latchFilter h hst hm hp).inv
  | stored x v _ hfill hlt => exact (hfill.store x v hlt).inv
  | extracted _ _ _ hinv => exact hinv
  | indexError _ r n _ hdue => exact hdue.indexError_inv r n
  | drained _ hst hm hp hlast =>
    obtain ⟨hcursor, hpixels⟩ := (h.runInv hst hm).scanline_end hp hlast
    exact inv_drained h hst hm hcursor hpixels

/-- No outcome changes the parameters or the events still to happen. -/
theorem State.Goes.frame {s t : State} {i : Instr} (g : s.Goes i t) :
    t.config = s.config ∧ t.pending = s.pending := by
  cases g with
  | extracted _ hu => exact hu.frame
  | indexError _ _ _ hu => exact hu.frame
  | _ => exact ⟨rfl, rfl⟩

/-- The one outcome in DONE of a transaction in RUN is that of the last POP, with the whole image delivered
(40_host_interface.md R141). -/
theorem State.Goes.done {s t : State} {i : Instr} (g : s.Goes i t) (h : s.Inv) (hst : s.st = .run)
    (hdone : t.st = .done) :
    ∃ m, s.mode? = some m ∧ t.row = t.cfgHeight ∧ t.pend = false ∧
      t.pixels.toNat = t.cfgWidth.toNat * t.cfgHeight.toNat ∧
      t.cursor.toNat = t.cfgHeight.toNat * m.rowBytes t.cfgWidth * 8 := by
  cases g with
  | drained _ _ hm hp hlast =>
    have hrow : s.row = s.cfgHeight := by
      rcases s.drained_st s.cursor (s.pixels + 1) with ⟨hrow, -⟩ | ⟨-, hrun⟩
      · exact hrow
      · exact absurd (hrun.symm.trans hdone) (by decide)
    obtain ⟨hcursor, hpixels⟩ := (h.runInv hst hm).scanline_end hp hlast
    rw [hrow] at hcursor hpixels
    exact ⟨_, hm, hrow, rfl, hpixels.trans (Nat.mul_comm ..), hcursor⟩
  | unchanged | read | latched | stored => exact absurd (hst.symm.trans hdone) (by decide)
  | configured _ hidle | palette _ hidle => exact absurd hst (not_run_of_start hidle)
  | extracted _ _ hdue => exact absurd (hdue.due.run.symm.trans hdone) (by decide)
  | raised | illegalFilter | aborted | refused | started | indexError => cases hdone

/-! ### What every transaction does -/

/-- A protocol error that the block raises (60_exceptions.md R334). -/
theorem raisedCode_protocol {cause : BitVec 4} (h : 1 ≤ cause.toNat ∧ cause.toNat ≤ 8) :
    raisedCode ErrKind.protocol.code cause = true := by
  simp [raisedCode, ErrKind.code, h]

section
variable {s : State} {i : Instr}

theorem proceeds_unchanged (he : exec i s = .next s) : s.Proceeds i := ⟨s, he, .unchanged i⟩

theorem proceeds_protocolError {cause : BitVec 4} (he : exec i s = .next (s.protocolError cause))
    (hc : 1 ≤ cause.toNat ∧ cause.toNat ≤ 8) : s.Proceeds i :=
  ⟨_, he, .raised i s.row 0 (raisedCode_protocol hc)⟩

/-- A write that is legal in IDLE and DONE only (40_host_interface.md R130). -/
theorem proceeds_idleWrite {cause : BitVec 4} {f : State → State} (he : exec i s = idleWrite cause f s)
    (hc : 1 ≤ cause.toNat ∧ cause.toNat ≤ 8) (hf : (s.st = .idle ∨ s.st = .done) → s.Goes i (f s)) :
    s.Proceeds i := by
  cases hst : s.st with
  | idle => exact ⟨_, he.trans (idleWrite_idle (.inl hst)), hf (.inl hst)⟩
  | done => exact ⟨_, he.trans (idleWrite_idle (.inr hst)), hf (.inr hst)⟩
  | run => exact proceeds_protocolError (he.trans (idleWrite_run hst)) hc
  | error => exact proceeds_unchanged (he.trans (idleWrite_error hst))

/-- A transaction that ends in ExtractNext, with the pixel due (43_sample_extract.md R263). -/
theorem proceeds_extractNext {u : State} {m : Mode} (he : exec i s = extractNext u) (hu : s.HandsOn u)
    (hdue : u.PixelDue m) : s.Proceeds i := by
  cases hp : u.pixelAt m u.xcol.toNat with
  | some p =>
    obtain ⟨k, hext, hinv, hpix⟩ := hdue.extractNext_some hp
    exact ⟨_, he.trans hext, .extracted i hu hdue hinv hpix⟩
  | none =>
    refine ⟨_, ?_, .indexError i (u.row - 1) (BitVec.ofInt 64 u.rasterPos) hu hdue⟩
    rw [he, hdue.extractNext_eq, extract_due_none hdue.due hp, toResult_ok]

end

/-! ### The commands -/

/-- The causes of an illegal FORMAT are causes of FormatError (60_exceptions.md R331). -/
theorem raisedCode_formatCause (d c : Byte) : raisedCode ErrKind.format.code (formatCause d c) = true := by
  unfold formatCause
  split
  · rfl
  · split <;> rfl

/-- START in IDLE or DONE, with FORMAT a mode: the checks of R137 in order. -/
theorem goes_startMode {s : State} {m : Mode} (ig : BitVec 28) (hst : s.st = .idle ∨ s.st = .done)
    (hm : s.mode? = some m) (hi : s.cfgInterlace = 0) : s.Goes (.start ig) (s.startMode m) := by
  rw [startMode_eq]
  split
  · exact .refused ig (kind := .format) hst rfl
  · rename_i hdim
    split
    · exact .refused ig (kind := .capacity) hst rfl
    · rename_i hcap
      obtain ⟨hw, hh⟩ : legalDim s.cfgWidth = true ∧ legalDim s.cfgHeight = true := by simpa using hdim
      exact .started ig hst hm hi hw hh (Nat.not_lt.1 hcap)

/-- START in IDLE or DONE decodes FORMAT (40_host_interface.md R137). -/
theorem proceeds_runFormat {s : State} (ig : BitVec 28) (hst : s.st = .idle ∨ s.st = .done) :
    s.Proceeds (.start ig) := by
  have hillegal (h : runFormat s = exec (.fmtIllegal s.cfgDepth s.cfgCtype s.cfgInterlace) s) :
      s.Proceeds (.start ig) :=
    ⟨_, (exec_start ig hst).trans (h.trans (exec_fmtIllegal_start _ _ _ hst)),
      .refused ig (kind := .format) hst (raisedCode_formatCause s.cfgDepth s.cfgCtype)⟩
  cases hm : s.mode? with
  | none => exact hillegal (by rw [runFormat, hm]; rfl)
  | some m =>
    by_cases hi : s.cfgInterlace = 0
    · exact ⟨_, (exec_start ig hst).trans ((runFormat_mode hm hi).trans (modeInstr_start m hst)),
        goes_startMode ig hst hm hi⟩
    · refine hillegal ?_
      rw [runFormat, hm]
      exact if_neg hi

theorem proceeds_start (s : State) (ig : BitVec 28) : s.Proceeds (.start ig) := by
  cases hst : s.st with
  | idle => exact proceeds_runFormat ig (.inl hst)
  | done => exact proceeds_runFormat ig (.inr hst)
  | run => exact proceeds_protocolError (cause := 7) (by simp [exec, execStart, hst]) (by decide)
  | error => exact proceeds_unchanged (by simp [exec, execStart, hst])

theorem proceeds_eos (s : State) (ig : BitVec 28) : s.Proceeds (.eos ig) := by
  cases hst : s.st with
  | idle => exact proceeds_protocolError (cause := 8) (by simp [exec, execEos, hst]) (by decide)
  | done | error => exact proceeds_unchanged (by simp [exec, execEos, hst])
  | run =>
    by_cases hrow : s.row.toNat < s.cfgHeight.toNat
    · exact ⟨_, by simp [exec, execEos, hst, hrow], .raised _ (kind := .format) (cause := 6) s.row 0 rfl⟩
    · exact proceeds_unchanged (by simp [exec, execEos, hst, hrow])

theorem proceeds_cmdReserved (s : State) (cmd : BitVec 4) (ig : BitVec 28) : s.Proceeds (.cmdReserved cmd ig) := by
  cases hst : s.st with
  | idle | run | done => exact proceeds_protocolError (cause := 6) (by simp [exec, execCmdReserved, hst]) (by decide)
  | error => exact proceeds_unchanged (by simp [exec, execCmdReserved, hst])

/-- POP of a held pixel: the next pixel of the scanline, or the scanline drained (40_host_interface.md R141). -/
theorem proceeds_popPixel {s : State} (h : s.Inv) (ig : BitVec 28) (hst : s.st = .run) (ho : s.outValid = true) :
    s.Proceeds (.pop ig) := by
  have hp := (h.out_held ho).2
  obtain ⟨m, r⟩ := h.running hst
  have he : exec (.pop ig) s = popPixel s := exec_pop hst ho
  by_cases hmore : s.xcol.toNat + 1 < s.cfgWidth.toNat
  · exact proceeds_extractNext (he.trans (popPixel_more hmore)) (.inl rfl) (pixelDue_popped h hst r.mode hp hmore)
  · have hlt := (r.draining hp).2.1
    refine ⟨_, ?_, .drained ig hst r.mode hp (by omega)⟩
    rw [he, popPixel_last hmore, hst]
    rfl

theorem proceeds_pop {s : State} (h : s.Inv) (ig : BitVec 28) : s.Proceeds (.pop ig) := by
  cases hst : s.st with
  | idle | done => exact proceeds_protocolError (cause := 5) (by simp [exec, execPop, hst]) (by decide)
  | error => exact proceeds_unchanged (by simp [exec, execPop, hst])
  | run =>
    cases ho : s.outValid with
    | true => exact proceeds_popPixel h ig hst ho
    | false => exact proceeds_protocolError (cause := 5) (by simp [exec, execPop, hst, ho]) (by decide)

/-! ### The register writes -/

theorem proceeds_palClear {s : State} (h : s.Inv) (ig : BitVec 28) : s.Proceeds (.palClear ig) :=
  proceeds_idleWrite (cause := 2) (f := fun s => { s with palLen := 0 }) rfl (by decide) fun hst =>
    .palette _ hst h.paletteOk_clear

theorem proceeds_wrPalData {s : State} (h : s.Inv) (r g b ig : Byte) : s.Proceeds (.wrPalData r g b ig) := by
  refine proceeds_idleWrite (cause := 2) rfl (by decide) fun hst => ?_
  show s.Goes _ (s.palAppend (paletteEntry r g b))
  rw [State.palAppend]
  split
  · rename_i hlt; exact .palette _ hst (h.paletteOk_append _ hlt)
  · exact .unchanged _

theorem proceeds_wrWidth (s : State) (w : Word) : s.Proceeds (.wrWidth w) :=
  proceeds_idleWrite (cause := 1) (f := fun s => { s with cfgWidth := w }) rfl (by decide) fun hst =>
    .configured _ hst w ..

theorem proceeds_wrHeight (s : State) (ht : Word) : s.Proceeds (.wrHeight ht) :=
  proceeds_idleWrite (cause := 1) (f := fun s => { s with cfgHeight := ht }) rfl (by decide) fun hst =>
    .configured _ hst _ ht ..

theorem proceeds_wrFormat (s : State) (d c il ig : Byte) : s.Proceeds (.wrFormat d c il ig) :=
  proceeds_idleWrite (cause := 1) (f := fun s => { s with cfgDepth := d, cfgCtype := c, cfgInterlace := il }) rfl
    (by decide) fun hst => .configured _ hst _ _ d c il

/-! ### The stream bytes -/

/-- An illegal filter-type byte in its place is latched, and raises its error (42_defilter.md R202). -/
theorem exec_illegalFilter {s : State} {x : Byte} (ig : BitVec 24) (hst : s.st = .run) (hrow : s.row ≠ s.cfgHeight)
    (hp : s.pend = false) (hph : s.phase = .filt) (hx : 4 < x.toNat) :
    exec (.wrInData x ig) s = .next (State.raise { s with inByte := x, ftype := x } .format 5 s.row 0) := by
  rw [exec_inData_run _ _ hst hrow hp, State.filterCode, hph, decodeFb, decodeFilter_illegal hx]
  show execFilterIllegal x _ = _
  rw [execFilterIllegal, inDataGate_run (by exact hst) (by exact hrow) (by exact hp)]
  simp only [filterByte_illegal _ hx]

/-- A stream byte in filter position (42_defilter.md R202). -/
theorem proceeds_filterByte {s : State} {m : Mode} (x : Byte) (ig : BitVec 24) (hst : s.st = .run)
    (hm : s.mode? = some m) (hrow : s.row ≠ s.cfgHeight) (hp : s.pend = false) (hph : s.phase = .filt) :
    s.Proceeds (.wrInData x ig) := by
  by_cases hx : x.toNat ≤ 4
  · obtain ⟨f, rfl⟩ := exists_codeOf hx
    exact ⟨_, exec_filterByte hst hrow hp hph, .latched f ig hst hm hp hph⟩
  · exact ⟨_, exec_illegalFilter ig hst hrow hp hph (Nat.not_le.1 hx), .illegalFilter x ig⟩

/-- A stream byte in data position: stored, and the last of a scanline completes it (42_defilter.md R203). -/
theorem State.Filling.proceeds {s : State} {m : Mode} {f : FilterType} {above done : List Byte}
    (h : s.Filling m f above done) (x : Byte) (ig : BitVec 24) : s.Proceeds (.wrInData x ig) := by
  have hcol := (h.inv.runInv h.run h.mode).col_lt
  rw [← h.done_len] at hcol
  have he : exec (.wrInData x ig) s = _ := h.exec_byte x
  by_cases hlast : done.length + 1 = m.rowBytes s.cfgWidth
  · obtain ⟨cur, prior, hc, -, hdue⟩ := h.complete x (nextByte f m.fbpp above done x) hlast
    exact proceeds_extractNext ((he.trans (if_pos hlast)).trans hc) (.inr ⟨x, cur, prior, rfl⟩) hdue
  · exact ⟨_, he.trans (if_neg hlast), .stored x _ ig h (by omega)⟩

theorem proceeds_wrInData {s : State} (h : s.Inv) (x : Byte) (ig : BitVec 24) : s.Proceeds (.wrInData x ig) := by
  have he : exec (.wrInData x ig) s = inDataGate (fun s => runFilter (s.filterCode x) { s with inByte := x }) s := rfl
  cases hst : s.st with
  | idle => exact proceeds_protocolError (cause := 3) (by simp [he, inDataGate, hst]) (by decide)
  | done | error => exact proceeds_unchanged (by simp [he, inDataGate, hst])
  | run =>
    obtain ⟨m, r⟩ := h.running hst
    by_cases hrow : s.row = s.cfgHeight
    · exact proceeds_unchanged (by simp [he, inDataGate, hst, hrow])
    · cases hp : s.pend with
      | true => exact proceeds_protocolError (cause := 4) (by simp [he, inDataGate, hst, hrow, hp]) (by decide)
      | false =>
        cases hph : s.phase with
        | filt => exact proceeds_filterByte x ig hst r.mode hrow hp hph
        | data =>
          obtain ⟨m, f, above, done, hfill⟩ := h.exists_filling hst hp hph
          exact hfill.proceeds x ig

/-! ### The transactions -/

theorem proceeds_decodeCmd {s : State} (h : s.Inv) (data : Word) : s.Proceeds (decodeCmd data) := by
  unfold decodeCmd
  dsimp only
  split
  · exact proceeds_unchanged rfl
  · exact proceeds_start s _
  · exact ⟨_, rfl, .aborted _⟩
  · exact proceeds_eos s _
  · exact proceeds_palClear h _
  · exact proceeds_pop h _
  · exact proceeds_cmdReserved s _ _

theorem proceeds_decodeWrite {s : State} (h : s.Inv) (off : Byte) (data : Word) :
    s.Proceeds (decodeWrite off data) := by
  unfold decodeWrite
  split
  · exact proceeds_decodeCmd h data
  · exact proceeds_wrWidth s _
  · exact proceeds_wrHeight s _
  · exact proceeds_wrFormat s ..
  · exact proceeds_wrPalData h ..
  · exact proceeds_wrInData h ..
  · exact proceeds_unchanged rfl

/-- From a state with the invariant every transaction proceeds (10_state.md R55). -/
theorem State.Inv.proceeds {s : State} {w : TWord} {i : Instr} (h : s.Inv) (hd : decode (.t w) = .ok i) :
    s.Proceeds i := by
  rw [decode, decodeT] at hd
  split at hd
  · split at hd <;> obtain rfl := Except.ok.inj hd
    · exact proceeds_decodeWrite h ..
    · exact ⟨_, rfl, .read _ _⟩
  · cases hd

end Sys2Proof.Machine
end

section
/-! SUPPORT. The step: what the oldest event can lead to from a state with the invariant, and what every step keeps. -/

namespace Sys2Proof.Machine

/-- The outcomes that a step can have from a state with the invariant: a fault is none of them. -/
inductive State.StepsTo (s : State) : Result → Prop
  | hold (hq : s.pending = []) : s.StepsTo (.next s)
  | reset {rest : List HostEvent} (hq : s.pending = .reset :: rest) :
      s.StepsTo (.next (State.hardReset { s with pending := rest }))
  | refused {a : BusAccess} {rest : List HostEvent} {r : Refusal} (hq : s.pending = .access a :: rest)
      (hi : a.instr s.config = .error r) : s.StepsTo (.refused r)
  | transaction {a : BusAccess} {rest : List HostEvent} {i : Instr} {t : State} (hq : s.pending = .access a :: rest)
      (hi : a.instr s.config = .ok i) (g : State.Goes { s with pending := rest } i t) : s.StepsTo (.next t)

/-- The instruction of a bus access is what its T word decodes to. -/
theorem BusAccess.instr_ok {a : BusAccess} {c : Config} {i : Instr} :
    a.instr c = .ok i ↔ ∃ w, a.word c = .ok w ∧ decode (.t w) = .ok i := by
  unfold BusAccess.instr
  cases a.word c with
  | error r => simp
  | ok w => cases hd : decode (.t w) <;> simp [hd]

theorem State.Inv.stepsTo {s : State} (h : s.Inv) : s.StepsTo (step s) := by
  cases hq : s.pending with
  | nil => rw [show step s = .next s by simp [step, runPending, hq]]; exact .hold hq
  | cons e rest =>
    cases e with
    | reset =>
      rw [show step s = .next (State.hardReset { s with pending := rest }) by simp [step, runPending, hq]]
      exact .reset hq
    | access a =>
      cases hi : a.instr s.config with
      | error r =>
        rw [show step s = .refused r by simp [step, runPending, hq, runAccess, hi]]
        exact .refused hq hi
      | ok i =>
        obtain ⟨w, -, hd⟩ := BusAccess.instr_ok.1 hi
        obtain ⟨t, he, g⟩ := (h.of_queue rest s.rdData).proceeds hd
        rw [show step s = .next t by simp [step, runPending, hq, runAccess, hi]; exact he]
        exact .transaction hq hi g

/-- Settles O50: a step holds the state, resets it, or takes it to an outcome of a transaction, and each has the
invariant. -/
theorem stepKeepsInv : Obligations.StepKeepsInv := by
  intro s t h ht
  have hs := h.stepsTo
  rw [ht] at hs
  cases hs with
  | hold => exact h
  | reset => exact inv_hardReset (h.of_queue _ s.rdData)
  | transaction _ _ g => exact g.inv (h.of_queue _ s.rdData)

/-- Settles O51: a fault is no outcome of a step from a state with the invariant. -/
theorem stepNeverFaults : Obligations.StepNeverFaults := by
  intro s f h hf
  have hs := h.stepsTo
  rw [hf] at hs
  cases hs

/-! ### Runs -/

/-- A transaction of the block has an instruction (20_memory.md R80). -/
theorem BusAccess.instr_of_isTransaction {a : BusAccess} {c : Config} (h : a.isTransaction c = true) :
    ∃ i, a.instr c = .ok i := by
  obtain ⟨⟨⟨hbytes, hlo⟩, hhi⟩, hal⟩ :
      ((a.bytes = 4 ∧ c.baseAddr ≤ a.addr) ∧ a.addr < c.baseAddr + 256) ∧ (a.addr - c.baseAddr) % 4 = 0 := by
    simpa [BusAccess.isTransaction] using h
  have hoff : aligned (BitVec.ofNat 8 (a.addr - c.baseAddr)) = true := by
    have hlt : a.addr - c.baseAddr < 2 ^ 8 := by omega
    rw [aligned, BitVec.toNat_ofNat, Nat.mod_eq_of_lt hlt, hal]
    rfl
  have hword : a.word c = .ok (TWord.mk a.write (BitVec.ofNat 8 (a.addr - c.baseAddr)) a.data) := by
    rw [BusAccess.word, if_pos hbytes, if_pos ⟨hlo, hhi⟩]
  have hd := decode_mk a.write a.data hoff
  split at hd <;> exact ⟨_, BusAccess.instr_ok.2 ⟨_, hword, hd⟩⟩

/-- The events after the first are transactions and resets too. -/
theorem queueOk_of_tail {s t : State} {e : HostEvent} {rest : List HostEvent} (h : s.queueOk = true)
    (hq : s.pending = e :: rest) (hc : t.config = s.config) (hp : t.pending = rest) : t.queueOk = true := by
  rw [State.queueOk, hq, List.all_cons, Bool.and_eq_true] at h
  rw [State.queueOk, hc, hp]
  exact h.2

/-- A step with nothing but transactions and resets in the queue goes on. -/
theorem State.Inv.step_next {s : State} (h : s.Inv) (hok : s.queueOk = true) :
    ∃ t, step s = .next t ∧ t.Inv ∧ t.queueOk = true := by
  have hs := h.stepsTo
  cases hr : step s with
  | fault f => exact absurd hr (stepNeverFaults s f h)
  | refused r =>
    rw [hr] at hs
    cases hs with
    | refused hq hi =>
      rw [State.queueOk, hq, List.all_cons, Bool.and_eq_true] at hok
      obtain ⟨i, hi'⟩ := BusAccess.instr_of_isTransaction hok.1
      rw [hi] at hi'
      cases hi'
  | next t =>
    refine ⟨t, rfl, stepKeepsInv s t h hr, ?_⟩
    rw [hr] at hs
    cases hs with
    | hold => exact hok
    | reset hq => exact queueOk_of_tail hok hq rfl rfl
    | transaction hq _ g => exact queueOk_of_tail hok hq g.frame.1 g.frame.2

theorem run_succ {M : Host.Core} {k : Nat} {s t : M.State} (h : M.step s = .next t) :
    M.run (k + 1) s = M.run k t := by
  rw [Host.Core.run, h]

/-- Settles O52: by induction on the number of steps, each of which goes on. -/
theorem runsNeverStop : Obligations.RunsNeverStop := by
  intro k
  induction k with
  | zero => exact fun s h hok => ⟨s, rfl, h, hok⟩
  | succ k ih =>
    intro s h hok
    obtain ⟨t, ht, hinv, hok'⟩ := h.step_next hok
    obtain ⟨u, hu, hend⟩ := ih t hinv hok'
    exact ⟨u, (run_succ (M := Sys2Proof.core) ht).trans hu, hend⟩

/-! ### A decode -/

/-- Settles O55: only the last POP of the last scanline leaves RUN for DONE. -/
theorem doneMeansWholeImage : Obligations.DoneMeansWholeImage := by
  intro s t h hst ht hdone
  have hs := h.stepsTo
  rw [ht] at hs
  cases hs with
  | hold => exact absurd (hst.symm.trans hdone) (by decide)
  | reset => cases hdone
  | transaction _ _ g => exact g.done (h.of_queue _ s.rdData) hst hdone

/-- While a scanline drains the cursor stands inside it, or at its end (10_state.md R56). -/
theorem cursorAfter_bounds {s : State} (m : Mode) (hrow : 1 ≤ s.row.toNat) (hx : s.xcol.toNat < s.cfgWidth.toNat) :
    (s.row.toNat - 1) * m.rowBytes s.cfgWidth * 8 ≤ s.cursorAfter m ∧
      s.cursorAfter m ≤ s.row.toNat * m.rowBytes s.cfgWidth * 8 := by
  have hsucc : s.row.toNat * m.rowBytes s.cfgWidth * 8 =
      (s.row.toNat - 1) * m.rowBytes s.cfgWidth * 8 + m.rowBytes s.cfgWidth * 8 := by
    rw [← Nat.add_mul, ← Nat.add_one_mul, Nat.sub_add_cancel hrow]
  have hfit := pixel_fits m s.cfgWidth _ hx
  rw [← Nat.add_one_mul] at hfit
  unfold State.cursorAfter
  split <;> omega

/-- Settles O54: the invariant's own clauses, and where the cursor stands in a draining scanline. -/
theorem runInvariants : Obligations.RunInvariants := by
  intro s h hst
  obtain ⟨m, r⟩ := h.running hst
  refine ⟨m, r.mode, r.row_le, r.col_lt, h.filt_col, fun hp => ?_, fun hp => (r.filling hp).2.1, fun hp => ?_,
    fun ho => (h.out_held ho).2, fun hp _ => ?_, fun hp => (r.filling hp).2.2⟩
  all_goals obtain ⟨hrow, hx, -, -, hcursor, hpixels⟩ := r.draining hp
  · exact ⟨hrow, hx⟩
  · rw [hcursor]; exact cursorAfter_bounds m hrow hx
  · exact hpixels

end Sys2Proof.Machine
end

section
/-! SUPPORT. The registers as RD shows them: what each packed register reads as, as a number (10_state.md R29 to R50). -/

namespace Sys2Proof.Machine

/-- RD returns the register and changes nothing else (40_host_interface.md R143). -/
theorem exec_rd (off : Byte) (s : State) : exec (.rd off) s = .next { s with rdData := s.regRead off } := rfl

/-! ### The packed registers -/

theorem ofBool_toNat (b : Bool) : (BitVec.ofBool b).toNat = if b = true then 1 else 0 := by cases b <;> rfl

/-- A 64-bit register is its two halves. -/
theorem lo32_hi32 (v : Wide) : v.toNat = (lo32 v).toNat + 2 ^ 32 * (hi32 v).toNat := by
  rw [lo32, hi32, extract_toNat, extract_toNat]
  have := v.isLt
  omega

theorem format_toNat (s : State) :
    s.format.toNat = s.cfgDepth.toNat + 2 ^ 8 * s.cfgCtype.toNat + 2 ^ 16 * s.cfgInterlace.toNat := by
  rw [State.format, bytes4_toNat, show (0 : Byte).toNat = 0 from rfl]
  omega

theorem inReady_iff (s : State) :
    s.inReady = true ↔ s.st = .run ∧ s.pend = false ∧ s.row.toNat < s.cfgHeight.toNat := by
  simp [State.inReady, and_assoc]

/-- STATUS is the sum of its fields, each at its place (10_state.md R31). -/
theorem status_toNat (s : State) :
    s.status.toNat = s.st.code.toNat + 2 ^ 4 * (BitVec.ofBool s.inReady).toNat
      + 2 ^ 5 * (BitVec.ofBool s.outValid).toNat + 2 ^ 6 * s.phase.code.toNat
      + 2 ^ 7 * (BitVec.ofBool s.pend).toNat + 2 ^ 8 * s.errKind.toNat + 2 ^ 12 * s.errCause.toNat := by
  unfold State.status
  rw [show ((0 : BitVec 16) ++ (s.errCause ++ _) : Word).toNat = _ from append_toNat (0 : BitVec 16) (s.errCause ++ _)]
  simp only [append_toNat, show (0 : BitVec 16).toNat = 0 from rfl, show (0 : BitVec 2).toNat = 0 from rfl]
  omega

/-- GEOM is the sum of its fields, each at its place (10_state.md R35). -/
theorem geom_toNat {s : State} {m : Mode} (hm : s.mode? = some m) :
    s.geom.toNat = m.spp + 2 ^ 3 + 2 ^ 4 * m.fbpp + 2 ^ 8 * m.bitsPP := by
  rw [State.geom, hm]
  cases m <;> decide

/-- RB has 35 bits (10_state.md R36). -/
theorem rowBytes_lt (m : Mode) (w : Word) : m.rowBytes w < 2 ^ 35 := by
  have hw := w.isLt
  have : m.bitsPP * w.toNat ≤ 64 * (2 ^ 32 - 1) := Nat.mul_le_mul (bitsPP_pos m).2 (by omega)
  rw [Mode.rowBytes]
  omega

/-- Only an illegal pair selects no mode (10_state.md R26). -/
theorem mode?_none_iff (s : State) : s.mode? = none ↔ (s.cfgCtype.toNat, s.cfgDepth.toNat) ∉ legalPairs := by
  rw [State.mode?, decodeMode_none_iff, ← legalPair_iff, Bool.not_eq_true]

theorem regRead_unused (s : State) {off : Byte} (h : 0x60 ≤ off.toNat) : s.regRead off = 0 := by
  unfold State.regRead
  split
  case h_22 => rfl
  all_goals omega

/-! ### The statements -/

/-- Settles O10: at every offset of the map the reset value reads 0. -/
theorem resetRegistersReadZero : Obligations.ResetRegistersReadZero := by
  intro c off
  refine ⟨_, exec_rd off _, ?_⟩
  show State.reset.regRead off = 0
  unfold State.regRead
  split <;> decide

/-- Settles O14: register by register of the map, by the lemmas on the packed and the 64-bit registers. -/
theorem rdReturnsVariables : Obligations.RdReturnsVariables := by
  intro s
  refine ⟨rfl, rfl, rfl, rfl, rfl, rfl, ⟨s.format, rfl, format_toNat s⟩, ⟨s.ftype.setWidth 32, rfl, ?_⟩,
    ⟨BitVec.ofNat 32 (s.palLen % 2 ^ 9), rfl, fun h => ?_⟩, ⟨_, _, rfl, rfl, lo32_hi32 s.cursor⟩,
    ⟨_, _, rfl, rfl, lo32_hi32 s.pixels⟩, ⟨_, _, rfl, rfl, lo32_hi32 s.errSample⟩, rfl, rfl, rfl, fun off h => ?_⟩
  · have := s.ftype.isLt
    rw [BitVec.toNat_setWidth, Nat.mod_eq_of_lt (by omega)]
  · rw [BitVec.toNat_ofNat]
    omega
  · rw [exec_rd, regRead_unused s h]

/-- Settles O15: STATUS is the sum of its fields, whose codes are R31's. -/
theorem statusFields : Obligations.StatusFields := by
  intro s
  refine ⟨s.status, rfl, ?_⟩
  have hst : s.st.code.toNat = match s.st with | .idle => 0 | .run => 1 | .done => 2 | .error => 3 := by
    cases s.st <;> rfl
  have hph : s.phase.code.toNat = match s.phase with | .filt => 0 | .data => 1 := by cases s.phase <;> rfl
  simp only [status_toNat, ofBool_toNat, inReady_iff, hst, hph] <;> rfl

/-- Settles O16: GEOM field by field, and ROW_BYTES as RB's low and high halves. -/
theorem geometryRegisters : Obligations.GeometryRegisters := by
  intro s
  refine ⟨s.geom, BitVec.ofNat 32 s.rowBytes, BitVec.ofNat 32 (s.rowBytes / 2 ^ 32), rfl, rfl, rfl,
    fun m hm => ⟨geom_toNat hm, ?_⟩, fun hm => ?_, mode?_none_iff s⟩
  · have hrb : s.rowBytes = m.rowBytes s.cfgWidth := by rw [State.rowBytes, hm]
    have hlt := rowBytes_lt m s.cfgWidth
    rw [hrb, BitVec.toNat_ofNat, BitVec.toNat_ofNat, ← Mode.rowBytes]
    omega
  · have hrb : s.rowBytes = 0 := by rw [State.rowBytes, hm]
    rw [State.geom, hm, hrb]
    exact ⟨rfl, rfl, by decide⟩

/-- Settles O17: each output register is two channels of the held pixel. -/
theorem outputRegisters : Obligations.OutputRegisters := by
  intro s
  refine ⟨s.outRg, s.outBa, rfl, rfl, fun h => ?_, fun h => ?_⟩
  · rw [State.outRg, State.outBa, if_pos h, if_pos h]
    constructor
    · rw [show (s.out.g ++ s.out.r : Word).toNat = _ from append_toNat s.out.g s.out.r]; omega
    · rw [show (s.out.a ++ s.out.b : Word).toNat = _ from append_toNat s.out.a s.out.b]; omega
  · simp [State.outRg, State.outBa, h]

/-- Settles O7: the access made of a T word carries that word, so its instruction is what the word decodes to. -/
theorem stepRunsDecodedInstr : Obligations.StepRunsDecodedInstr := by
  intro s w i rest hq hd
  have hi := BusAccess.instr_ok.2 ⟨w, ofWord_word w s.config, hd⟩
  simp [step, runPending, hq, runAccess, hi]

end Sys2Proof.Machine
end

section
/-! SUPPORT. The window and the serial order of the memory rules (20_memory.md): which accesses have an instruction,
the bits of a packed sample, a read's effect, the bytes of a pixel, and a draining scanline taken whole. -/

namespace Sys2Proof.Machine

/-! ### The accesses that run (20_memory.md R80) -/

theorem wellFormed_decodeCmd (data : Word) : (decodeCmd data).wellFormed = true := by
  unfold decodeCmd
  dsimp only
  split
  case h_7 =>
    simp only [imp_false] at *
    rw [Instr.wellFormed, decide_eq_true_eq]
    omega
  all_goals rfl

theorem wellFormed_decodeWrite {off : Byte} (data : Word) (h : aligned off = true) :
    (decodeWrite off data).wellFormed = true := by
  unfold decodeWrite
  split
  case h_1 => exact wellFormed_decodeCmd data
  case h_7 =>
    simp only [imp_false] at *
    simp [Instr.wellFormed, writableOffsets, *]
  all_goals rfl

/-- A T word decodes only at an aligned offset, and then to a well-formed instruction (30_encoding.md R101). -/
theorem decode_t_ok {w : TWord} {i : Instr} (h : decode (.t w) = .ok i) :
    aligned (TWord.offset w) = true ∧ i.wellFormed = true := by
  rw [decode, decodeT] at h
  split at h
  case isTrue hal =>
    refine ⟨hal, ?_⟩
    split at h <;> obtain rfl := Except.ok.inj h
    · exact wellFormed_decodeWrite _ hal
    · exact hal
  case isFalse => cases h

/-- Only a 32-bit access inside the window has a T word. -/
theorem BusAccess.word_ok {a : BusAccess} {c : Config} {w : TWord} (h : a.word c = .ok w) :
    a.bytes = 4 ∧ c.baseAddr ≤ a.addr ∧ a.addr < c.baseAddr + 256 ∧
      TWord.offset w = BitVec.ofNat 8 (a.addr - c.baseAddr) := by
  unfold BusAccess.word at h
  split at h
  case isTrue hbytes =>
    split at h
    case isTrue hwin =>
      obtain rfl := Except.ok.inj h
      exact ⟨hbytes, hwin.1, hwin.2, offset_mk ..⟩
    case isFalse => cases h
  case isFalse => cases h

theorem BusAccess.isTransaction_iff {a : BusAccess} {c : Config} :
    a.isTransaction c = true ↔
      a.bytes = 4 ∧ c.baseAddr ≤ a.addr ∧ a.addr < c.baseAddr + 256 ∧ (a.addr - c.baseAddr) % 4 = 0 := by
  simp [BusAccess.isTransaction, and_assoc]

/-- An access with an instruction is a transaction of the block, and its instruction is well formed. -/
theorem BusAccess.isTransaction_of_instr {a : BusAccess} {c : Config} {i : Instr} (h : a.instr c = .ok i) :
    a.isTransaction c = true ∧ i.wellFormed = true := by
  obtain ⟨w, hw, hd⟩ := BusAccess.instr_ok.1 h
  obtain ⟨hbytes, hlo, hhi, hoff⟩ := BusAccess.word_ok hw
  obtain ⟨hal, hwf⟩ := decode_t_ok hd
  have hlt : a.addr - c.baseAddr < 2 ^ 8 := by omega
  rw [hoff, aligned, BitVec.toNat_ofNat, Nat.mod_eq_of_lt hlt, beq_iff_eq] at hal
  exact ⟨BusAccess.isTransaction_iff.2 ⟨hbytes, hlo, hhi, hal⟩, hwf⟩

theorem step_access {s : State} {a : BusAccess} {rest : List HostEvent} (hq : s.pending = .access a :: rest) :
    step s = runAccess a { s with pending := rest } := by
  rw [step, runPending, hq]

/-- Settles O8: exactly the transactions have an instruction, which the step runs; the step refuses any other
access. -/
theorem onlyTransactionsRun : Obligations.OnlyTransactionsRun := by
  intro s a rest hq
  rw [← BusAccess.isTransaction_iff, step_access hq, runAccess]
  constructor
  · intro h
    obtain ⟨i, hi⟩ := BusAccess.instr_of_isTransaction h
    exact ⟨i, (BusAccess.isTransaction_of_instr hi).2, by simp [hi]⟩
  · intro h
    cases hi : a.instr s.config with
    | ok i => exact absurd (BusAccess.isTransaction_of_instr hi).1 h
    | error r => exact ⟨r, rfl⟩

/-! ### Packed samples (20_memory.md R76) -/

/-- A packed sample is its byte shifted down to the sample's lowest bit, its first `d` bits kept. -/
theorem getLsbD_packedSample {d : Nat} (o : Nat) (b : Byte) (k : Nat) (hd : d ≤ 16) :
    (packedSample d o b).getLsbD k = (decide (k < d) && b.getLsbD (8 - o - d + k)) := by
  rw [packedSample, BitVec.getLsbD_ofNat, Nat.testBit_and, Nat.testBit_shiftRight, Nat.testBit_two_pow_sub_one,
    BitVec.getLsbD]
  by_cases hk : k < d
  · have hk16 : k < 16 := by omega
    simp [hk, hk16]
  · simp [hk]

/-- Settles O38: the bits of a packed sample, for every depth below 8. -/
theorem packedSampleBits : Obligations.PackedSampleBits := by
  intro d o b k hd _
  exact getLsbD_packedSample o b k (by omega)

/-! ### Reads (20_memory.md R82) -/

/-- No register shows the value that was read last. -/
theorem regRead_rdData (s : State) (v : Word) (off : Byte) : { s with rdData := v }.regRead off = s.regRead off := rfl

/-- Settles O18: a read writes `rdData` alone, which no read looks at. -/
theorem readsHaveNoEffect : Obligations.ReadsHaveNoEffect := by
  intro s off
  refine ⟨s.regRead off, exec_rd off s, fun off' => ?_⟩
  rw [exec_rd, exec_rd]
  exact congrArg (fun w => Host.Outcome.next { s with rdData := w }) (regRead_rdData s (s.regRead off) off')

/-! ### Serialised pixels (20_memory.md R79) -/

theorem chan_toNat (c : Chan) : c.toNat = 2 ^ 8 * (c.extractLsb' 8 8).toNat + (c.extractLsb' 0 8).toNat := by
  rw [extract_toNat, extract_toNat]
  have := c.isLt
  omega

/-- Settles O60: each channel is its high byte, then its low byte. -/
theorem pixelSerialisation : Obligations.PixelSerialisation := by
  intro p
  exact ⟨_, _, _, _, _, _, _, _, rfl, chan_toNat p.r, chan_toNat p.g, chan_toNat p.b, chan_toNat p.a⟩

/-! ### A draining scanline (20_memory.md R75) -/

/-- A scanline that drains from column 0 holds the reference's pixels, one for each column. -/
theorem pixelAt_of_draining {s : State} {m : Mode} {ps : List Rgba16} (r : s.RunInv m)
    (h : rowPixels s.pal s.palLen m s.cfgWidth.toNat (s.priorBytes (m.rowBytes s.cfgWidth)) = some ps) :
    ps.length = s.cfgWidth.toNat ∧ ∀ i < ps.length, s.pixelAt m i = ps[i]? := by
  obtain ⟨hlen, hall⟩ := pixelAt_of_rowPixels (holds_priorBytes r.prior_full) (by simp) h
  exact ⟨hlen, hlen ▸ hall⟩

/-- Settles O57: the scanline is drained from its first column on, pixel by pixel. -/
theorem scanlineDrained : Obligations.ScanlineDrained := by
  intro s m ps h hpix hst hm hp hx hps
  have r := h.runInv hst hm
  obtain ⟨hlen, hall⟩ := pixelAt_of_draining r hps
  have hwidth := (legalDim_iff _).1 r.width
  have hx0 : s.xcol.toNat = 0 := by rw [hx]; rfl
  obtain ⟨hrow, -, -, -, -, hpixels⟩ := r.draining hp
  cases ps with
  | nil => exact absurd (hlen ▸ hwidth.1) (by decide)
  | cons p ps =>
    obtain ⟨k, n, htake, -, hk, hn⟩ := takePixels_draining ps h hpix hst hm hp (by rw [hx0, Nat.zero_add, hlen])
      fun i hi => by rw [hx0, Nat.zero_add]; exact hall i hi
    refine ⟨s.drained k n, hlen ▸ htake, rfl, rfl, rfl, rfl, ?_, hk⟩
    show n.toNat = _
    rw [hn, hpixels, hx0, Nat.add_zero, ← Nat.succ_mul, Nat.succ_eq_add_one, Nat.sub_add_cancel hrow]

end Sys2Proof.Machine
end

section
/-! SUPPORT. The encoding (30_encoding.md): the encoder and the decoder are each other's inverse, format by format, and
the maps of R102 to R105. -/

namespace Sys2Proof.Machine

/-! ### Words from their fields -/

theorem eq_ofNat_of_toNat {n k : Nat} {x : BitVec n} (h : x.toNat = k) : x = BitVec.ofNat n k := by
  rw [← h, BitVec.ofNat_toNat, BitVec.setWidth_eq]

theorem cmdData_fields (data : Word) : (data.extractLsb' 4 28 ++ data.extractLsb' 0 4 : Word) = data := by
  apply BitVec.eq_of_toNat_eq
  rw [cmdData_toNat, extract_toNat, extract_toNat]
  have := data.isLt
  omega

/-- A byte and the bits above it, as WR_IN_DATA holds them. -/
theorem inData_sum (data : Word) :
    data.toNat = (data.extractLsb' 0 8).toNat + 2 ^ 8 * (data.extractLsb' 8 24).toNat := by
  rw [extract_toNat, extract_toNat]
  have := data.isLt
  omega

theorem inData_fields (data : Word) : (data.extractLsb' 8 24 ++ data.extractLsb' 0 8 : Word) = data := by
  apply BitVec.eq_of_toNat_eq
  rw [inData_toNat, inData_sum data]
  omega

/-- Four bytes, least significant first, as WR_FORMAT and WR_PAL_DATA hold them. -/
theorem bytes4_sum (data : Word) :
    data.toNat = (data.extractLsb' 0 8).toNat + 2 ^ 8 * (data.extractLsb' 8 8).toNat
      + 2 ^ 16 * (data.extractLsb' 16 8).toNat + 2 ^ 24 * (data.extractLsb' 24 8).toNat := by
  simp only [extract_toNat]
  have := data.isLt
  omega

theorem bytes4_fields (data : Word) :
    (data.extractLsb' 24 8 ++ (data.extractLsb' 16 8 ++ (data.extractLsb' 8 8 ++ data.extractLsb' 0 8)) : Word) =
      data := by
  apply BitVec.eq_of_toNat_eq
  rw [bytes4_toNat, bytes4_sum data]
  omega

theorem fmt_sum (w : FmtWord) :
    w.toNat = (FmtWord.depth w).toNat + 2 ^ 8 * (FmtWord.ctype w).toNat + 2 ^ 16 * (FmtWord.interlace w).toNat := by
  simp only [FmtWord.depth, FmtWord.ctype, FmtWord.interlace, extract_toNat]
  have := w.isLt
  omega

theorem fmt_fields (w : FmtWord) :
    (FmtWord.interlace w ++ (FmtWord.ctype w ++ FmtWord.depth w) : FmtWord) = w := by
  apply BitVec.eq_of_toNat_eq
  rw [bytes3_toNat, fmt_sum w]
  omega

/-! ### Format T -/

/-- A command's instruction keeps its code and the bits above it (R103). -/
theorem encode_decodeCmd_append (ig : BitVec 28) (c : BitVec 4) : encode (decodeCmd (ig ++ c)) = encodeCmd c ig := by
  rw [decodeCmd_append]
  split
  case h_7 => rfl
  all_goals
    rename_i hc
    exact congrArg (encodeCmd · ig) (eq_ofNat_of_toNat hc).symm

theorem encode_decodeCmd (data : Word) : encode (decodeCmd data) = .t (TWord.mk true 0x00 data) := by
  have h := encode_decodeCmd_append (data.extractLsb' 4 28) (data.extractLsb' 0 4)
  rwa [encodeCmd, cmdData_fields] at h

/-- A register write is encoded by its offset and its data (R102). -/
theorem encode_decodeWrite (off : Byte) (data : Word) :
    encode (decodeWrite off data) = .t (TWord.mk true off data) := by
  unfold decodeWrite
  split
  case h_7 => rfl
  all_goals
    rename_i hoff
    obtain rfl := eq_ofNat_of_toNat hoff
  case h_1 => exact encode_decodeCmd data
  case h_2 => rfl
  case h_3 => rfl
  case h_4 => exact congrArg (fun x => Encoded.t (TWord.mk true 0x10 x)) (bytes4_fields data)
  case h_5 => exact congrArg (fun x => Encoded.t (TWord.mk true 0x20 x)) (bytes4_fields data)
  case h_6 => exact congrArg (fun x => Encoded.t (TWord.mk true 0x28 x)) (inData_fields data)

theorem decode_write {off : Byte} (data : Word) (h : aligned off = true) :
    decode (.t (TWord.mk true off data)) = .ok (decodeWrite off data) := decode_mk true data h

theorem decode_read {off : Byte} (data : Word) (h : aligned off = true) :
    decode (.t (TWord.mk false off data)) = .ok (.rd off) := decode_mk false data h

theorem decodeCmd_reserved {c : BitVec 4} (ig : BitVec 28) (h : 6 ≤ c.toNat) :
    decodeCmd (ig ++ c) = .cmdReserved c ig := by
  rw [decodeCmd_append]
  split
  case h_7 => rfl
  all_goals omega

theorem decodeWrite_format (d c i ig : Byte) :
    decodeWrite 0x10 (ig ++ (i ++ (c ++ d))) = .wrFormat d c i ig :=
  (Instr.wrFormat.injEq ..).mpr ⟨bytes4_0 .., bytes4_1 .., bytes4_2 .., bytes4_3 ..⟩

theorem decodeWrite_palData (r g b ig : Byte) :
    decodeWrite 0x20 (ig ++ (b ++ (g ++ r))) = .wrPalData r g b ig :=
  (Instr.wrPalData.injEq ..).mpr ⟨bytes4_0 .., bytes4_1 .., bytes4_2 .., bytes4_3 ..⟩

theorem decodeWrite_inData (x : Byte) (ig : BitVec 24) : decodeWrite 0x28 (ig ++ x) = .wrInData x ig :=
  (Instr.wrInData.injEq ..).mpr ⟨inData_byte .., inData_ignored ..⟩

/-- A write to an offset that has no operation of its own is ignored (R102). -/
theorem decodeWrite_ignored {off : Byte} (data : Word) (h : off.toNat ∉ writableOffsets) :
    decodeWrite off data = .wrIgnored off data := by
  unfold decodeWrite
  split
  case h_7 => rfl
  all_goals
    rename_i hoff
    exact absurd (by rw [hoff]; decide) h

/-! ### Format FB -/

theorem decodeFb_illegal {x : Byte} (h : 5 ≤ x.toNat) : decodeFb x = .filterIllegal x := by
  rw [decodeFb, decodeFilter_illegal h]

/-- A filter-type byte is encoded by itself (R104). -/
theorem encode_decodeFb (x : Byte) : encode (decodeFb x) = .fb x ∧ (decodeFb x).wellFormed = true := by
  by_cases h : x.toNat ≤ 4
  · obtain ⟨f, rfl⟩ := exists_codeOf h
    cases f <;> exact ⟨rfl, rfl⟩
  · have h5 : 5 ≤ x.toNat := by omega
    rw [decodeFb_illegal h5]
    exact ⟨rfl, decide_eq_true h5⟩

/-! ### Format FMT -/

theorem wellFormed_mode (m : Mode) : m.instr.wellFormed = true := by cases m <;> rfl

/-- A colour type and a depth that select a mode are those of its mode word (R105). -/
theorem encode_mode_of_decodeMode {d c : Byte} {m : Mode} (h : decodeMode d c = some m) :
    encode m.instr = .fmt ((0 : Byte) ++ (c ++ d)) := by
  unfold decodeMode at h
  split at h
  case h_16 => cases h
  all_goals
    rename_i hc hd
    obtain rfl := eq_ofNat_of_toNat hc
    obtain rfl := eq_ofNat_of_toNat hd
    obtain rfl := Option.some.inj h
    rfl

theorem decodeFmtFields_illegal {d c i : Byte} (h : (legalPair c d && i.toNat == 0) = false) :
    decodeFmtFields d c i = .fmtIllegal d c i := by
  unfold decodeFmtFields
  cases hm : decodeMode d c with
  | none => rfl
  | some m =>
    have hpair : legalPair c d = true := by
      rw [← Bool.not_eq_false, ← decodeMode_none_iff, hm]
      simp
    rw [hpair, Bool.true_and, beq_eq_false_iff_ne] at h
    exact if_neg fun hi => h (by rw [hi]; rfl)

/-- A mode word decodes to a mode that it is the encoding of, or else to FMT_ILLEGAL with its own three fields. -/
theorem decodeFmt_cases (w : FmtWord) :
    (∃ m : Mode, decodeFmt w = m.instr ∧ encode m.instr = .fmt w) ∨
      (decodeFmt w = .fmtIllegal (FmtWord.depth w) (FmtWord.ctype w) (FmtWord.interlace w) ∧
        (decodeFmt w).wellFormed = true) := by
  by_cases h : (legalPair (FmtWord.ctype w) (FmtWord.depth w) && (FmtWord.interlace w).toNat == 0) = true
  · obtain ⟨hpair, hi⟩ := Bool.and_eq_true_iff.1 h
    have hi0 : FmtWord.interlace w = 0 := BitVec.eq_of_toNat_eq (beq_iff_eq.1 hi)
    cases hm : decodeMode (FmtWord.depth w) (FmtWord.ctype w) with
    | none => rw [(decodeMode_none_iff _ _).1 hm] at hpair; cases hpair
    | some m =>
      refine .inl ⟨m, by simp [decodeFmt, decodeFmtFields, hm, hi0], ?_⟩
      rw [encode_mode_of_decodeMode hm, ← hi0, fmt_fields]
  · rw [Bool.not_eq_true] at h
    have hd := decodeFmtFields_illegal h
    exact .inr ⟨hd, by rw [decodeFmt, hd, Instr.wellFormed, h]; rfl⟩

/-- The encoder gives a mode word back, and what it decodes to is well formed (R105). -/
theorem encode_decodeFmt (w : FmtWord) : encode (decodeFmt w) = .fmt w ∧ (decodeFmt w).wellFormed = true := by
  obtain ⟨m, hd, he⟩ | ⟨hd, hwf⟩ := decodeFmt_cases w
  · rw [hd]
    exact ⟨he, wellFormed_mode m⟩
  · refine ⟨?_, hwf⟩
    rw [hd, encode, fmt_fields]

/-! ### The round trips -/

/-- Settles O1: format T by the offset and the fields of the data, FB and FMT by their tables. -/
theorem decodeOfEncode : Obligations.DecodeOfEncode := by
  intro i hwf
  cases i with
  | nop ig | start ig | abort ig | eos ig | palClear ig | pop ig =>
    exact (decode_ctrl ig _).trans (congrArg Except.ok (decodeCmd_append ig _))
  | cmdReserved cmd ig =>
    exact (decode_ctrl ig cmd).trans (congrArg Except.ok (decodeCmd_reserved ig (of_decide_eq_true hwf)))
  | wrWidth w | wrHeight w => exact decode_write w rfl
  | wrFormat d c i ig => exact (decode_write _ rfl).trans (congrArg Except.ok (decodeWrite_format d c i ig))
  | wrPalData r g b ig => exact (decode_write _ rfl).trans (congrArg Except.ok (decodeWrite_palData r g b ig))
  | wrInData x ig => exact (decode_write _ rfl).trans (congrArg Except.ok (decodeWrite_inData x ig))
  | wrIgnored off data =>
    obtain ⟨hal, hoff⟩ := Bool.and_eq_true_iff.1 hwf
    rw [encode, decode_write data hal, decodeWrite_ignored data (by simpa using hoff)]
  | rd off => exact decode_read 0 hwf
  | filterNone | filterSub | filterUp | filterAvg | filterPaeth => rfl
  | filterIllegal x => exact congrArg Except.ok (decodeFb_illegal (of_decide_eq_true hwf))
  | g1 | g2 | g4 | g8 | g16 | rgb8 | rgb16 | p1 | p2 | p4 | p8 | ga8 | ga16 | rgba8 | rgba16 => rfl
  | fmtIllegal d c i =>
    rw [Instr.wellFormed, Bool.not_eq_true'] at hwf
    rw [encode, decode_fmt_bytes, decodeFmtFields_illegal hwf]

/-- Settles O2: a T word is made of its three fields, of which a read keeps all but DATA. -/
theorem encodeOfDecode : Obligations.EncodeOfDecode := by
  intro e i h
  cases e with
  | t w =>
    obtain ⟨hal, hwf⟩ := decode_t_ok h
    refine ⟨hwf, ?_⟩
    rw [← mk_fields w, decode_mk _ _ hal] at h
    cases hwr : TWord.isWrite w with
    | false =>
      obtain rfl : Instr.rd (TWord.offset w) = i := by simpa [hwr] using h
      exact .inr ⟨w, rfl, hwr, rfl⟩
    | true =>
      obtain rfl : decodeWrite (TWord.offset w) (TWord.data w) = i := by simpa [hwr] using h
      rw [encode_decodeWrite, ← hwr, mk_fields]
      exact .inl rfl
  | fb x =>
    obtain rfl := Except.ok.inj h
    obtain ⟨he, hwf⟩ := encode_decodeFb x
    exact ⟨hwf, .inl he⟩
  | fmt w =>
    obtain rfl := Except.ok.inj h
    obtain ⟨he, hwf⟩ := encode_decodeFmt w
    exact ⟨hwf, .inl he⟩

/-! ### The maps -/

/-- Only DATA[3:0] tell the commands apart (R103). -/
theorem decodeCmd_of_mod {data : Word} (k : Nat) (h : data.toNat % 16 = k % 16) :
    decodeCmd data = decodeCmd ((data.extractLsb' 4 28 : BitVec 28) ++ BitVec.ofNat 4 k) := by
  have hc : data.extractLsb' 0 4 = BitVec.ofNat 4 k := by
    apply BitVec.eq_of_toNat_eq
    rw [extract_toNat, BitVec.toNat_ofNat]
    omega
  rw [← hc, cmdData_fields]

/-- Settles O4: the write map offset by offset, and CTRL command by command. -/
theorem transactionMap : Obligations.TransactionMap := by
  intro off data hoff
  have hal : aligned off = true := beq_iff_eq.2 hoff
  rw [decode_read data hal, decode_write data hal]
  refine ⟨rfl, ?_, ?_, ?_, ?_, ?_, ?_, fun h => by rw [decodeWrite_ignored data h]⟩ <;> rintro rfl
  · have hcmd (k : Nat) (h : data.toNat % 16 = k % 16) :=
      congrArg (Except.ok (ε := DecodeError)) ((decodeCmd_of_mod k h).trans (decodeCmd_append _ _))
    refine ⟨hcmd 0, hcmd 1, hcmd 2, hcmd 3, hcmd 4, hcmd 5, fun h => congrArg Except.ok ?_⟩
    exact (decodeCmd_of_mod data.toNat rfl).trans (decodeCmd_reserved _ (by simpa using h))
  · rfl
  · rfl
  · exact ⟨_, _, _, _, rfl, bytes4_sum data⟩
  · exact ⟨_, _, _, _, rfl, bytes4_sum data⟩
  · exact ⟨_, _, rfl, inData_sum data⟩

/-- Each row of R105's table is its mode's word. -/
theorem encode_of_mem_modeRows : ∀ r ∈ modeRows, encode r.2.1.instr = .fmt r.1 := by decide

/-- Every mode has its row. -/
theorem mem_modeRows_of_encode {m : Mode} {w : FmtWord} (h : encode m.instr = .fmt w) : w ∈ modeRows.map (·.1) := by
  cases m <;> obtain rfl := Encoded.fmt.inj h <;> decide

/-- Settles O6: the rows are the encodings of the modes, so every other mode word is illegal. -/
theorem decodeModeMap : Obligations.DecodeModeMap := by
  refine ⟨fun r hr => ⟨?_, ?_⟩, fun w hw => ?_⟩
  · rw [← encode_of_mem_modeRows r hr, decodeOfEncode _ (wellFormed_mode _)]
  · revert r
    decide
  · obtain ⟨m, -, he⟩ | ⟨hd, -⟩ := decodeFmt_cases w
    · exact absurd (mem_modeRows_of_encode he) hw
    · exact ⟨_, _, _, congrArg Except.ok hd, fmt_sum w⟩

/-- Settles O3: each word decodes by evaluation. -/
theorem specWordsDecode : Obligations.SpecWordsDecode :=
  ⟨rfl, rfl, rfl, rfl, rfl, rfl, rfl, rfl, rfl, rfl, rfl, rfl, rfl, rfl, rfl⟩

/-- Settles O5: the five codes by name, every other byte by `decodeFb_illegal`. -/
theorem filterTypeMap : Obligations.FilterTypeMap := by
  intro x
  refine ⟨?_, ?_, ?_, ?_, ?_, fun h => congrArg Except.ok (decodeFb_illegal h)⟩
  all_goals
    intro h
    rw [eq_ofNat_of_toNat h]
    rfl

end Sys2Proof.Machine
end

section
/-! SUPPORT. The illegal mode word at work (30_encoding.md R105), and the words of the host's pseudo-instructions
(R111). -/

namespace Sys2Proof.Machine

/-! ### FMT_ILLEGAL -/

/-- The first check that fails is on the colour type, on the pair, or on INTERLACE (40_host_interface.md R137). -/
theorem formatCause_eq (d c : Byte) :
    formatCause d c = if c.toNat ∉ [0, 2, 3, 4, 6] then 1 else if (c.toNat, d.toNat) ∉ legalPairs then 2 else 3 := by
  simp only [formatCause, ← legalType_iff, ← legalPair_iff, Bool.not_eq_true, Bool.not_eq_true']

/-- Settles O26: START's refusal by the cause of the first failing check, and the two other block states. -/
theorem illegalFormat : Obligations.IllegalFormat := by
  intro s d c i hwf
  refine ⟨fun hst => ?_, fun hst => by simp [exec, execFmtIllegal, hst],
    fun hst => by simp [exec, execFmtIllegal, hst]⟩
  rw [exec_fmtIllegal_start d c i hst, startIllegal_eq, formatCause_eq]
  refine ⟨fun hc => ?_, fun hc hp => ?_, fun hp => ⟨?_, ?_⟩⟩
  · rw [if_pos hc]
  · rw [if_neg (not_not_intro hc), if_pos hp]
  · rintro rfl
    rw [← legalPair_iff] at hp
    simp [Instr.wellFormed, hp] at hwf
  · have hc : c.toNat ∈ [0, 2, 3, 4, 6] := (legalType_iff c).1 (legalType_of_legalPair ((legalPair_iff c d).2 hp))
    rw [if_neg (not_not_intro hc), if_neg (not_not_intro hp)]

/-! ### Host programs -/

/-- `in` of one byte is the word of WR_IN_DATA with the byte. -/
theorem encode_inData (b : Byte) : encode (.wrInData b 0) = .t (wrWord .inData (b.setWidth 32)) := by
  have h : ((0 : BitVec 24) ++ b : Word) = b.setWidth 32 := by
    apply BitVec.eq_of_toNat_eq
    have := b.isLt
    rw [inData_toNat, BitVec.toNat_setWidth, show (0 : BitVec 24).toNat = 0 from rfl, Nat.mod_eq_of_lt (by omega)]
    omega
  rw [encode, h]
  rfl

theorem decode_inData (b : Byte) : decode (.t (wrWord .inData (b.setWidth 32))) = .ok (.wrInData b 0) := by
  rw [← encode_inData, decodeOfEncode _ rfl]

/-- The access of a word that decodes is a transaction of the block. -/
theorem isTransaction_ofWord {w : TWord} {i : Instr} (c : Config) (h : decode (.t w) = .ok i) :
    (BusAccess.ofWord w c).isTransaction c = true :=
  (BusAccess.isTransaction_of_instr (BusAccess.instr_ok.2 ⟨w, ofWord_word w c, h⟩)).1

/-- Settles O59: each word is the encoding of an instruction, which it therefore decodes to. -/
theorem pseudoInstructionExpansion : Obligations.PseudoInstructionExpansion := by
  intro c f d ds r g b depth ctype il w h n
  refine ⟨rfl, rfl, rfl, rfl, rfl, rfl, rfl, rfl, ⟨_, rfl, decode_inData d⟩,
    ⟨_, rfl, decodeOfEncode (.wrPalData r g b 0) rfl⟩, ⟨_, rfl, decodeOfEncode (.wrFormat depth ctype il 0) rfl⟩,
    ⟨_, _, rfl, decodeOfEncode (.wrWidth w) rfl, decodeOfEncode (.wrHeight h) rfl⟩, rfl, rfl, fun e he => ?_⟩
  obtain ⟨x, -, rfl⟩ := List.mem_map.1 he
  exact isTransaction_ofWord c (decode_inData x)

end Sys2Proof.Machine
end

section
/-! SUPPORT. The host interface (40_host_interface.md): what each transaction does in each block state. -/

namespace Sys2Proof.Machine

/-! ### START (40_host_interface.md R137) -/

/-- START's decoding of FORMAT runs the instruction that FORMAT decodes to (30_encoding.md R105). -/
theorem runFormat_eq (s : State) : runFormat s = exec (decodeFmtFields s.cfgDepth s.cfgCtype s.cfgInterlace) s := by
  unfold runFormat decodeFmtFields State.mode?
  cases decodeMode s.cfgDepth s.cfgCtype with
  | none => rfl
  | some m =>
    by_cases hi : s.cfgInterlace = 0
    · simp only [hi, if_true, runMode_eq, exec_mode]
    · simp only [hi, if_false, exec]

/-- Settles O11: START in IDLE and DONE is `runFormat`. -/
theorem startRunsFormat : Obligations.StartRunsFormat := by
  intro s ig hst
  rw [exec_start ig hst, runFormat_eq]

theorem exec_start_run {s : State} (ig : BitVec 28) (h : s.st = .run) :
    exec (.start ig) s = .next (s.protocolError 7) := by simp [exec, execStart, h]

theorem exec_start_error {s : State} (ig : BitVec 28) (h : s.st = .error) : exec (.start ig) s = .next s := by
  simp [exec, execStart, h]

/-- FMT_ILLEGAL stands for an illegal pair, or a legal one with INTERLACE not 0 (30_encoding.md R105). -/
theorem wellFormed_fmtIllegal_iff (d c i : Byte) :
    (Instr.fmtIllegal d c i).wellFormed = true ↔ ((c.toNat, d.toNat) ∈ legalPairs → i ≠ 0) := by
  have hi : i.toNat = 0 ↔ i = 0 := BitVec.toNat_eq_nat.trans (by simp)
  rw [Instr.wellFormed, ← legalPair_iff, Bool.not_eq_true', Bool.and_eq_false_imp, beq_eq_false_iff_ne, Ne, hi]

/-- The colour type of a legal pair is legal (10_state.md R26). -/
theorem mem_types_of_mem_legalPairs {c d : Byte} (h : (c.toNat, d.toNat) ∈ legalPairs) :
    c.toNat ∈ [0, 2, 3, 4, 6] :=
  (legalType_iff c).1 (legalType_of_legalPair ((legalPair_iff c d).2 h))

/-- START in a configuration of no mode does what FMT_ILLEGAL does. -/
theorem exec_start_illegal {s : State} (ig : BitVec 28) (hst : s.st = .idle ∨ s.st = .done)
    (h : (s.cfgCtype.toNat, s.cfgDepth.toNat) ∈ legalPairs → s.cfgInterlace ≠ 0) :
    exec (.start ig) s = .next (refusedStart s 2 (formatCause s.cfgDepth s.cfgCtype)) := by
  have hwf := (wellFormed_fmtIllegal_iff s.cfgDepth s.cfgCtype s.cfgInterlace).2 h
  rw [startRunsFormat s ig hst, decodeFmtFields_illegal ((Bool.not_eq_true' _).mp hwf),
    exec_fmtIllegal_start _ _ _ hst, startIllegal_eq]

/-- START in a legal format is its mode's START. -/
theorem exec_start_mode {s : State} {m : Mode} (ig : BitVec 28) (hst : s.st = .idle ∨ s.st = .done)
    (hm : s.mode? = some m) (hi : s.cfgInterlace = 0) : exec (.start ig) s = .next (s.startMode m) := by
  rw [exec_start ig hst, runFormat_mode hm hi, modeInstr_start m hst]

/-- The check on the dimensions, as R137 writes it. -/
theorem legalDims_iff (w h : Word) :
    (legalDim w && legalDim h) = true ↔
      1 ≤ w.toNat ∧ w.toNat ≤ 2 ^ 31 - 1 ∧ 1 ≤ h.toNat ∧ h.toNat ≤ 2 ^ 31 - 1 := by
  rw [Bool.and_eq_true, legalDim_iff, legalDim_iff, and_assoc]

theorem startMode_illegalDims {s : State} (m : Mode) (h : ¬(legalDim s.cfgWidth && legalDim s.cfgHeight) = true) :
    s.startMode m = refusedStart s 2 4 := by
  rw [startMode_eq, if_pos (by rwa [Bool.not_eq_true', ← Bool.not_eq_true])]

theorem startMode_noCapacity {s : State} {m : Mode} (h : (legalDim s.cfgWidth && legalDim s.cfgHeight) = true)
    (hcap : s.config.rowBufBytes < m.rowBytes s.cfgWidth) : s.startMode m = refusedStart s 5 0 := by
  rw [startMode_eq, if_neg (by rw [h]; decide), if_pos hcap]

theorem startMode_accepted {s : State} {m : Mode} (h : (legalDim s.cfgWidth && legalDim s.cfgHeight) = true)
    (hcap : m.rowBytes s.cfgWidth ≤ s.config.rowBufBytes) :
    s.startMode m = startedRun s (Memory.fill s.prior (List.replicate (m.rowBytes s.cfgWidth) 0)) := by
  rw [startMode_eq, if_neg (by rw [h]; decide), if_neg (Nat.not_lt.2 hcap)]

/-- Settles O24: an illegal format by the cause of its first failing check, a legal one by its mode's checks. -/
theorem startRefusals : Obligations.StartRefusals := by
  intro s ig
  refine ⟨fun hst => ⟨fun hc => ?_, fun hc hp => ?_, fun hp hi => ?_, fun m hm hi => ?_⟩, exec_start_run ig,
    exec_start_error ig⟩
  · rw [exec_start_illegal ig hst fun hp => absurd (mem_types_of_mem_legalPairs hp) hc, formatCause_eq, if_pos hc]
  · rw [exec_start_illegal ig hst fun h => absurd h hp, formatCause_eq, if_neg (not_not_intro hc), if_pos hp]
  · rw [exec_start_illegal ig hst fun _ => hi, formatCause_eq,
      if_neg (not_not_intro (mem_types_of_mem_legalPairs hp)), if_neg (not_not_intro hp)]
  · rw [exec_start_mode ig hst hm hi, ← legalDims_iff]
    exact ⟨fun hdims => congrArg _ (startMode_illegalDims m hdims),
      fun hdims hcap => congrArg _ (startMode_noCapacity hdims hcap)⟩

/-- Settles O25: every check passes, and `prior` is filled with a row of zeros. -/
theorem startEntersRun : Obligations.StartEntersRun := by
  intro s ig m hst hw hw' hh hh' hcap
  have hstart := startMode_accepted ((legalDims_iff s.cfgWidth s.cfgHeight).2 ⟨hw, hw', hh, hh'⟩) hcap
  refine ⟨Memory.fill s.prior (List.replicate (m.rowBytes s.cfgWidth) 0), ?_, fun hm hi => ?_, fun k => ?_⟩
  · rw [exec_mode, modeInstr_start m hst, hstart]
  · rw [exec_start_mode ig hst hm hi, hstart]
  · rw [Memory.read?_fill, List.length_replicate, ← Mode.rowBytes]
    split
    · rename_i hk; exact List.getElem?_replicate_of_lt hk
    · rfl

/-! ### The other commands -/

/-- A read-only register or an offset from 0x2C on has no write of its own (30_encoding.md R102). -/
theorem wellFormed_wrIgnored {off : Byte} (data : Word)
    (h : off.toNat ∈ [0x04, 0x14, 0x18, 0x1C, 0x24] ∨ (0x2C ≤ off.toNat ∧ off.toNat % 4 = 0)) :
    (Instr.wrIgnored off data).wellFormed = true := by
  simp only [List.mem_cons, List.not_mem_nil, or_false] at h
  have hal : off.toNat % 4 = 0 := by omega
  have hoff : off.toNat ∉ writableOffsets := by
    simp only [writableOffsets, List.mem_cons, List.not_mem_nil, or_false]
    omega
  simp [Instr.wellFormed, aligned, hal, hoff]

/-- Settles O22: the meanings of NOP and WR_IGNORED do nothing. -/
theorem noEffectTransactions : Obligations.NoEffectTransactions :=
  ⟨fun _ ig => ⟨decodeOfEncode (.nop ig) rfl, rfl⟩,
    fun _ off data h => ⟨decodeOfEncode (.wrIgnored off data) (wellFormed_wrIgnored data h), rfl⟩⟩

/-- Settles O27: ABORT's meaning is one update of the state. -/
theorem abortToIdle : Obligations.AbortToIdle :=
  fun _ ig => ⟨decodeOfEncode (.abort ig) rfl, rfl⟩

theorem exec_eos_run {s : State} (ig : BitVec 28) (h : s.st = .run) :
    exec (.eos ig) s =
      .next (if s.row.toNat < s.cfgHeight.toNat then s.raise .format 6 s.row 0 else s) := by simp [exec, execEos, h]

theorem exec_eos_idle {s : State} (ig : BitVec 28) (h : s.st = .idle) :
    exec (.eos ig) s = .next (s.protocolError 8) := by simp [exec, execEos, h]

theorem exec_eos_ignored {s : State} (ig : BitVec 28) (h : s.st = .done ∨ s.st = .error) :
    exec (.eos ig) s = .next s := by
  rcases h with h | h <;> simp [exec, execEos, h]

/-- Settles O28: by the block state and, in RUN, whether scanlines are still to come. -/
theorem endOfStream : Obligations.EndOfStream := by
  intro s ig
  refine ⟨decodeOfEncode (.eos ig) rfl, fun hst hrow => ?_, fun hst hrow => ?_, exec_eos_idle ig,
    exec_eos_ignored ig⟩
  · exact (exec_eos_run ig hst).trans (congrArg _ (if_pos hrow))
  · exact (exec_eos_run ig hst).trans (congrArg _ (if_neg (Nat.not_lt.2 hrow)))

theorem exec_cmdReserved {s : State} (cmd : BitVec 4) (ig : BitVec 28) (h : s.st ≠ .error) :
    exec (.cmdReserved cmd ig) s = .next (s.protocolError 6) := by
  cases hst : s.st with
  | error => exact absurd hst h
  | idle | run | done => simp [exec, execCmdReserved, hst]

theorem exec_cmdReserved_error {s : State} (cmd : BitVec 4) (ig : BitVec 28) (h : s.st = .error) :
    exec (.cmdReserved cmd ig) s = .next s := by simp [exec, execCmdReserved, h]

/-- Settles O23: the codes from 6 on decode to CMD_RESERVED, whose meaning looks at the block state alone. -/
theorem reservedCommand : Obligations.ReservedCommand :=
  fun _ cmd ig hcmd => ⟨decodeOfEncode (.cmdReserved cmd ig) (decide_eq_true hcmd), exec_cmdReserved cmd ig,
    exec_cmdReserved_error cmd ig⟩

/-- POP with no pixel held (40_host_interface.md R141). -/
theorem exec_pop_empty {s : State} (ig : BitVec 28)
    (h : s.st = .idle ∨ s.st = .done ∨ (s.st = .run ∧ s.outValid = false)) :
    exec (.pop ig) s = .next (s.protocolError 5) := by
  rcases h with h | h | ⟨h, ho⟩
  · simp [exec, execPop, h]
  · simp [exec, execPop, h]
  · simp [exec, execPop, h, ho]

theorem exec_pop_error {s : State} (ig : BitVec 28) (h : s.st = .error) : exec (.pop ig) s = .next s := by
  simp [exec, execPop, h]

/-- Settles O29: by the block state, then by the held pixel and its column. -/
theorem popRule : Obligations.PopRule := by
  intro s ig
  have hheld (hst : s.st = .run) (ho : s.outValid = true) : exec (.pop ig) s = popPixel s := exec_pop hst ho
  refine ⟨decodeOfEncode (.pop ig) rfl, exec_pop_empty ig, exec_pop_error ig, fun hst ho hlast => ?_,
    fun m hm hst ho hmore => ?_⟩
  · rw [hheld hst ho, popPixel_last (Nat.not_lt.2 hlast), hst]
    rfl
  · rw [hheld hst ho, popPixel_more hmore, extractNext_mode (by exact hm), exec_mode]
    rfl

/-! ### The register writes -/

theorem exec_inData_idle {s : State} (x : Byte) (ig : BitVec 24) (h : s.st = .idle) :
    exec (.wrInData x ig) s = .next (s.protocolError 3) := by simp [exec, execWrInData, inDataGate, h]

theorem exec_inData_ignored {s : State} (x : Byte) (ig : BitVec 24) (h : s.st = .done ∨ s.st = .error) :
    exec (.wrInData x ig) s = .next s := by
  rcases h with h | h <;> simp [exec, execWrInData, inDataGate, h]

/-- Settles O13: outside RUN the gate in front of a stream byte lets none pass. -/
theorem streamByteOutsideRun : Obligations.StreamByteOutsideRun :=
  fun _ x ig => ⟨exec_inData_idle x ig, exec_inData_ignored x ig⟩

/-- A write that is legal in IDLE and DONE only, in each block state (40_host_interface.md R130). -/
theorem exec_of_idleWrite {i : Instr} {cause : BitVec 4} {f : State → State} {s : State}
    (he : exec i s = idleWrite cause f s) :
    (s.st = .idle ∨ s.st = .done → exec i s = .next (f s)) ∧
    (s.st = .run → exec i s = .next (s.protocolError cause)) ∧
    (s.st = .error → exec i s = .next s) := by
  rw [he]
  exact ⟨idleWrite_idle, idleWrite_run, idleWrite_error⟩

/-- Settles O19: each of the three writes is an `idleWrite` with cause 1. -/
theorem configurationWrites : Obligations.ConfigurationWrites := by
  intro s v d c i ig
  obtain ⟨hw, hwRun, hwError⟩ :=
    exec_of_idleWrite (i := .wrWidth v) (cause := 1) (f := fun s => { s with cfgWidth := v }) (s := s) rfl
  obtain ⟨hh, hhRun, hhError⟩ :=
    exec_of_idleWrite (i := .wrHeight v) (cause := 1) (f := fun s => { s with cfgHeight := v }) (s := s) rfl
  obtain ⟨hf, hfRun, hfError⟩ :=
    exec_of_idleWrite (i := .wrFormat d c i ig) (cause := 1)
      (f := fun s => { s with cfgDepth := d, cfgCtype := c, cfgInterlace := i }) (s := s) rfl
  simp only [List.forall_mem_cons]
  exact ⟨decodeOfEncode (.wrWidth v) rfl, decodeOfEncode (.wrHeight v) rfl, decodeOfEncode (.wrFormat d c i ig) rfl,
    fun hst => ⟨hw hst, hh hst, hf hst⟩, fun hst => ⟨hwRun hst, hhRun hst, hfRun hst, nofun⟩,
    fun hst => ⟨hwError hst, hhError hst, hfError hst, nofun⟩⟩

/-- Settles O21: PAL_CLEAR is an `idleWrite` with cause 2. -/
theorem paletteClear : Obligations.PaletteClear :=
  fun _ ig => ⟨decodeOfEncode (.palClear ig) rfl,
    exec_of_idleWrite (i := .palClear ig) (cause := 2) (f := fun s => { s with palLen := 0 }) rfl⟩

/-- An 8-bit value is rescaled by the factor 65535 / 255 (44_color_resolve.md R280). -/
theorem scale16_d8_toNat (v : Byte) : (scale16 (v.setWidth 16) .d8).toNat = v.toNat * 257 := by
  have := v.isLt
  simp only [scale16, Depth.bits, BitVec.toNat_setWidth, BitVec.toNat_ofNat]
  omega

theorem palAppend_of_lt {s : State} (p : Rgba16) (h : s.palLen < 256) :
    s.palAppend p = { s with pal := Memory.write s.pal s.palLen p, palLen := s.palLen + 1 } := if_pos h

theorem palAppend_full {s : State} (p : Rgba16) (h : 256 ≤ s.palLen) : s.palAppend p = s := if_neg (Nat.not_lt.2 h)

/-- Settles O20: WR_PAL_DATA is an `idleWrite` with cause 2, and the entry is written at `palLen` only. -/
theorem paletteAppend : Obligations.PaletteAppend := by
  intro s r g b ig
  obtain ⟨hidle, hrun, herror⟩ :=
    exec_of_idleWrite (i := .wrPalData r g b ig) (cause := 2) (f := fun s => s.palAppend (paletteEntry r g b))
      (s := s) rfl
  refine ⟨decodeOfEncode (.wrPalData r g b ig) rfl, fun hst hlt => ?_, fun hst hfull => ?_, hrun, herror⟩
  · exact ⟨Memory.write s.pal s.palLen (paletteEntry r g b),
      (hidle hst).trans (congrArg _ (palAppend_of_lt _ hlt)),
      ⟨paletteEntry r g b, Memory.read?_write_same .., scale16_d8_toNat r, scale16_d8_toNat g,
        scale16_d8_toNat b, rfl⟩,
      fun k hk => Memory.read?_write_other _ _ hk⟩
  · exact (hidle hst).trans (congrArg _ (palAppend_full _ hfull))

end Sys2Proof.Machine
end

section
/-! SUPPORT. The bit cursor (41_bit_cursor.md): its two operations, and that within a decode neither the cursor nor
the position in the stream moves backward. -/

namespace Sys2Proof.Machine

/-! ### ADVANCE and ALIGN (41_bit_cursor.md R182, R184) -/

theorem align_cursor_toNat (s : State) (h : s.cursor.toNat + 7 < 2 ^ 64) :
    s.align.cursor.toNat = (s.cursor.toNat + 7) / 8 * 8 := by
  have hlt : s.cursor.toNat + (8 - s.bitOffset) % 8 < 2 ^ 64 := by omega
  rw [State.align, advance_cursor_toNat s hlt, State.bitOffset]
  omega

theorem align_of_byte_boundary {s : State} (h : s.cursor.toNat % 8 = 0) : s.align = s := by
  rw [State.align, State.bitOffset, h]
  exact advance_zero s

/-- Settles O36: both operations write the cursor alone. -/
theorem cursorAdvanceAndAlign : Obligations.CursorAdvanceAndAlign :=
  fun s => ⟨fun _ h => ⟨advance_cursor_toNat s h, rfl⟩,
    fun h => ⟨align_cursor_toNat s h, rfl, align_of_byte_boundary⟩⟩

/-! ### Positions (41_bit_cursor.md R182, 10_state.md R52) -/

/-- The cursor and the position in the stream as InitRun sets them (40_host_interface.md R145). -/
def State.AtStart (s : State) : Prop := s.cursor = 0 ∧ s.row = 0 ∧ s.phase = .filt ∧ s.col = 0

/-- Neither the cursor nor the position (row, phase, col) of `t` lies before that of `s`. -/
def State.NotAfter (s t : State) : Prop :=
  s.cursor.toNat ≤ t.cursor.toNat ∧
    (s.row.toNat < t.row.toNat ∨
      (s.row = t.row ∧ (s.phase = t.phase ∨ (s.phase = .filt ∧ t.phase = .data)) ∧ s.col.toNat ≤ t.col.toNat))

theorem State.NotAfter.refl (s : State) : s.NotAfter s := ⟨le_rfl, .inr ⟨rfl, .inl rfl, le_rfl⟩⟩

/-- The cursor moves on, and the position in the stream stays. -/
theorem State.NotAfter.with_cursor {s u : State} {k : Wide} (h : s.NotAfter u) (hk : u.cursor.toNat ≤ k.toNat) :
    s.NotAfter { u with cursor := k } :=
  ⟨h.1.trans hk, h.2⟩

/-- A POP keeps the position in the stream, and a completed scanline moves it to the next row. -/
theorem State.HandsOn.notAfter {s u : State} (h : s.HandsOn u) (hrow : 1 ≤ u.row.toNat) : s.NotAfter u := by
  rcases h with rfl | ⟨x, cur, prior, rfl⟩
  · exact .refl s
  · have hrow : 1 ≤ (s.row + 1).toNat := hrow
    have hnext : s.row.toNat < (s.row + 1).toNat := by bv_omega
    exact ⟨le_rfl, .inl hnext⟩

/-- ExtractNext leaves the cursor at or past the first bit of its pixel (43_sample_extract.md R259, R263). -/
theorem State.ExtractionDue.cursor_le_cursorAfter {s : State} {m : Mode} (h : s.ExtractionDue m) :
    s.cursor.toNat ≤ s.cursorAfter m := by
  have hend := cursor_bound h
  unfold State.cursorAfter
  split
  · omega
  · rw [h.cursor, Nat.add_one_mul]
    omega

/-- The pixel placed in the output register leaves the cursor at or past its first bit. -/
theorem State.PixelDue.cursor_le {s : State} {m : Mode} {p : Rgba16} {k : Wide} (h : s.PixelDue m)
    (hinv : (s.withPixel p k).Inv) : s.cursor.toNat ≤ k.toNat := by
  have r : (s.withPixel p k).RunInv m := hinv.runInv h.due.run h.mode
  obtain ⟨-, -, -, -, hcursor, -⟩ := r.draining (hinv.out_held rfl).2
  exact h.due.cursor_le_cursorAfter.trans_eq hcursor.symm

/-- The samples read leave the cursor at or past their first bit (41_bit_cursor.md R186). -/
theorem State.ExtractionDue.cursor_le_advance {s : State} {m : Mode} (h : s.ExtractionDue m) :
    s.cursor.toNat ≤ (s.advance m.bitsPP).cursor.toNat := by
  have hend := cursor_bound h
  have hwrap := h.no_wrap
  rw [advance_cursor_toNat s (by omega)]
  omega

/-- Only START and ABORT take the cursor and the position back, and they set them to zero. -/
theorem State.Goes.notAfter_or_atStart {s t : State} {i : Instr} (g : s.Goes i t) (h : s.Inv) :
    (t.AtStart ∧ ∃ ig, i = .start ig ∨ i = .abort ig) ∨ s.NotAfter t := by
  cases g with
  | unchanged | read | raised | illegalFilter | configured | palette | drained => exact .inr (.refl s)
  | aborted ig => exact .inl ⟨⟨rfl, rfl, rfl, rfl⟩, ig, .inr rfl⟩
  | refused ig | started ig => exact .inl ⟨⟨rfl, rfl, rfl, rfl⟩, ig, .inl rfl⟩
  | latched _ _ _ _ _ hph =>
    have hcol : s.col.toNat ≤ (0 : Word).toNat := by rw [h.filt_col hph]
    exact .inr ⟨le_rfl, .inr ⟨rfl, .inr ⟨hph, rfl⟩, hcol⟩⟩
  | stored x v _ hfill =>
    have hcol : s.col.toNat ≤ (s.storeByte x v).col.toNat := by
      rw [hfill.storeByte_col x v, hfill.done_len]
      exact Nat.le_succ _
    exact .inr ⟨le_rfl, .inr ⟨rfl, .inl rfl, hcol⟩⟩
  | extracted _ hu hdue hinv => exact .inr ((hu.notAfter hdue.due.row_pos).with_cursor (hdue.cursor_le hinv))
  | indexError _ _ _ hu hdue =>
    exact .inr ((hu.notAfter hdue.due.row_pos).with_cursor hdue.due.cursor_le_advance)

/-- Settles O47: by the outcomes of a step, of which only a reset, a START and an ABORT set positions back. -/
theorem positionsNeverMoveBack : Obligations.PositionsNeverMoveBack := by
  intro s t h ht
  have hs := h.stepsTo
  rw [ht] at hs
  cases hs with
  | hold => exact .inr (State.NotAfter.refl s)
  | @reset rest hq => exact .inl ⟨rfl, rfl, rfl, rfl, .inl ⟨rest, hq⟩⟩
  | @transaction a rest i t hq hi g =>
    rcases g.notAfter_or_atStart (h.of_queue rest s.rdData) with
      ⟨⟨hcursor, hrow, hphase, hcol⟩, ig, hig⟩ | hpos
    · refine .inl ⟨hcursor, hrow, hphase, hcol, .inr ⟨a, ig, rest, hq, ?_⟩⟩
      exact hig.imp (fun e => hi.trans (congrArg _ e)) (fun e => hi.trans (congrArg _ e))
    · exact .inr hpos

end Sys2Proof.Machine
end

section
/-! SUPPORT. The reconstruction rules on integers (42_defilter.md R205 to R213). -/

namespace Sys2Proof.Machine

theorem reconAvg_toNat (x a b c : Byte) : (reconAvg x a b c).toNat = (x.toNat + (a.toNat + b.toNat) / 2) % 256 := by
  rw [reconAvg, BitVec.toNat_add, BitVec.toNat_ofNat, Nat.add_mod_mod]

/-- Settles O31: only the final sum of a rule wraps. -/
theorem reconstructionFormulas : Obligations.ReconstructionFormulas :=
  fun x a b c => ⟨rfl, rfl, rfl, BitVec.toNat_add x a, rfl, BitVec.toNat_add x b, rfl, reconAvg_toNat x a b c, rfl,
    BitVec.toNat_add x (paeth a b c)⟩

/-- The distances of the predictor in closed form: the terms that cancel in `p - a`, `p - b` and `p - c` left out
(42_defilter.md R213). -/
theorem paeth_eq (a b c : Byte) :
    paeth a b c =
      let pa := ((b.toNat : Int) - c.toNat).natAbs
      let pb := ((a.toNat : Int) - c.toNat).natAbs
      let pc := ((a.toNat : Int) + b.toNat - 2 * c.toNat).natAbs
      if pa ≤ pb ∧ pa ≤ pc then a else if pb ≤ pc then b else c := by
  have ha : (a.toNat : Int) + b.toNat - c.toNat - a.toNat = b.toNat - c.toNat := by omega
  have hb : (a.toNat : Int) + b.toNat - c.toNat - b.toNat = a.toNat - c.toNat := by omega
  have hc : (a.toNat : Int) + b.toNat - c.toNat - c.toNat = a.toNat + b.toNat - 2 * c.toNat := by omega
  simp only [paeth, ha, hb, hc]

/-- The predictor is one of its arguments (42_defilter.md R210). -/
theorem paeth_mem (a b c : Byte) : paeth a b c = a ∨ paeth a b c = b ∨ paeth a b c = c := by
  rw [paeth]
  split
  · exact .inl rfl
  · split
    · exact .inr (.inl rfl)
    · exact .inr (.inr rfl)

/-- Settles O32: the distances in closed form, and the branches of the definition. -/
theorem paethClosedForm : Obligations.PaethClosedForm := fun a b c => ⟨paeth_eq a b c, paeth_mem a b c⟩

/-- With nothing above, the left byte is nearest (42_defilter.md R209). -/
theorem paeth_left (a : Byte) : paeth a 0 0 = a := by
  rw [paeth_eq]
  exact if_pos (by simp)

/-- With nothing to the left, the byte above is nearest (42_defilter.md R209). -/
theorem paeth_up (b : Byte) : paeth 0 b 0 = b := by
  rw [paeth_eq]
  dsimp only
  split
  next h =>
    have hb : b.toNat = 0 := by simpa using h.1
    exact (BitVec.eq_of_toNat_eq hb).symm
  next => exact if_pos (by simp)

/-- Settles O33: a neighbour that is 0 drops out of the sums, and the predictor is the other one. -/
theorem filterBoundaryCases : Obligations.FilterBoundaryCases := by
  intro x a b
  refine ⟨BitVec.add_zero x, ?_, ?_, reconAvg_toNat x a 0 0, ?_⟩
  · rw [reconPaeth, paeth_left, reconSub]
  · rw [reconPaeth, paeth_up, reconUp]
  · simpa using reconAvg_toNat x 0 b 0

end Sys2Proof.Machine
end

section
/-! SUPPORT. The stream byte in RUN (42_defilter.md R201 to R211): the byte in filter position, the byte in data
position, and the scanline that its last byte completes. -/

namespace Sys2Proof.Machine

/-! ### A scanline streamed in -/

/-- ExtractNext of a pixel that is due leaves the scanline it is extracted from, whether or not the pixel's index is in
range (43_sample_extract.md R263). -/
theorem State.PixelDue.extractNext_scanline {s : State} {m : Mode} (h : s.PixelDue m) :
    ∃ t, extractNext s = .next t ∧ t.row = s.row ∧ t.pend = s.pend ∧ t.xcol = s.xcol ∧ t.ftype = s.ftype ∧
      t.pixels = s.pixels ∧ t.pal = s.pal ∧ t.palLen = s.palLen ∧ t.prior = s.prior := by
  cases hp : s.pixelAt m s.xcol.toNat with
  | some p =>
    obtain ⟨k, hext, -⟩ := h.extractNext_some hp
    exact ⟨_, hext, rfl, rfl, rfl, rfl, rfl, rfl, rfl, rfl⟩
  | none =>
    have hext := h.extractNext_eq.trans (congrArg toResult (extract_due_none h.due hp))
    exact ⟨_, hext, rfl, rfl, rfl, rfl, rfl, rfl, rfl, rfl⟩

/-- Settles O56: the bytes of a scanline complete it, by induction over them (`execAll_scanInstrs`), and the extraction
of its first pixel leaves it as it is. -/
theorem scanlineReconstructed : Obligations.ScanlineReconstructed := by
  intro s m f xs h hst hm hp hph hlen
  obtain ⟨b, cur, prior, hscan, hprior, hdue⟩ := execAll_scanInstrs f h hst hm hp hph hlen
  obtain ⟨t, hext, hrow, hpend, hxcol, hftype, hpixels, hpal, hpalLen, hkept⟩ := hdue.extractNext_scanline
  refine ⟨t, hscan.trans hext, hrow, hpend, hxcol, hftype, hpixels, hpal, hpalLen, fun i hi => ?_⟩
  rw [hkept]
  exact hprior.read (by rwa [length_defilterRow, hlen]) 0

/-! ### The gate and the filter instructions -/

/-- With every scanline received a stream byte is ignored (42_defilter.md R201). -/
theorem exec_inData_received {s : State} (x : Byte) (ig : BitVec 24) (hst : s.st = .run) (hrow : s.row = s.cfgHeight) :
    exec (.wrInData x ig) s = .next s := by simp [exec, execWrInData, inDataGate, hst, hrow]

/-- While a scanline drains a stream byte is PE(4) (42_defilter.md R201). -/
theorem exec_inData_draining {s : State} (x : Byte) (ig : BitVec 24) (hst : s.st = .run) (hrow : s.row ≠ s.cfgHeight)
    (hp : s.pend = true) : exec (.wrInData x ig) s = .next (s.protocolError 4) := by
  simp [exec, execWrInData, inDataGate, hst, hrow, hp]

/-- Settles O12: the checks of the gate in their order, and the instruction in force behind it. -/
theorem defilterInput : Obligations.DefilterInput := by
  intro s x ig hst
  refine ⟨exec_inData_received x ig hst, exec_inData_draining x ig hst, fun hrow hp hph => ?_, fun hrow hp hph => ?_⟩
  · rw [exec_inData_run x ig hst hrow hp, State.filterCode, hph]
  · rw [exec_inData_run x ig hst hrow hp, State.filterCode, hph]

theorem decodeFb_codeOf (f : FilterType) : decodeFb (codeOf f) = f.instr := by rw [decodeFb, decodeFilter_codeOf]

section
variable {s : State} (hst : s.st = .run) (hrow : s.row ≠ s.cfgHeight) (hp : s.pend = false)
include hst hrow hp

/-- A filter instruction in filter position latches its code (42_defilter.md R202). -/
theorem exec_filter_filt (f : FilterType) (hph : s.phase = .filt) :
    exec f.instr s = .next { s with ftype := codeOf f, phase := .data, col := 0 } := by
  rw [exec_filter, filterInstr, inDataGate_run hst hrow hp, hph]
  exact congrArg _ (filterByte_legal s (codeOf_toNat_le f))

/-- The illegal filter instruction in filter position latches its byte and raises its error (42_defilter.md R202). -/
theorem exec_filterIllegal_filt {x : Byte} (hph : s.phase = .filt) (hx : 4 < x.toNat) :
    exec (.filterIllegal x) s = .next (State.raise { s with ftype := x } .format 5 s.row 0) := by
  show execFilterIllegal x s = _
  rw [execFilterIllegal, inDataGate_run hst hrow hp]
  simp only [hph, filterByte_illegal s hx]

/-- A filter instruction in data position reconstructs the byte at hand (42_defilter.md R203). -/
theorem exec_filter_data (f : FilterType) (hph : s.phase = .data) :
    exec f.instr s = dataByte (reconOf f) s.inByte s := by
  rw [exec_filter, filterInstr, inDataGate_run hst hrow hp, hph]

end

/-- Settles O30: a legal byte is the code of a filter type, and any other is illegal. -/
theorem filterByteRule : Obligations.FilterByteRule := by
  intro s x ig hst hrow hp hph
  refine ⟨fun hx => ?_, fun hx => ?_⟩
  · obtain ⟨f, rfl⟩ := exists_codeOf hx
    rw [decodeFb_codeOf]
    exact ⟨exec_filterByte hst hrow hp hph, exec_filter_filt hst hrow hp f hph⟩
  · exact ⟨exec_illegalFilter ig hst hrow hp hph hx, exec_filterIllegal_filt hst hrow hp hph hx⟩

/-! ### Data bytes -/

/-- The neighbours of a byte inside the row buffers are read without a fault (42_defilter.md R204). -/
theorem neighbours_of_neighboursAre {s : State} {fbpp i : Nat} {a b c : Byte} (h : neighboursAre s fbpp i a b c)
    (hi : i < s.config.rowBufBytes) : s.neighbours fbpp i = .ok (a, b, c) := by
  obtain ⟨hinside, hstart, hb⟩ := h
  have hback : i - fbpp < s.config.rowBufBytes := by omega
  rw [neighbours_ok, lookBack_ok, lookBack_ok, rowRead_nat_ok]
  by_cases hf : fbpp ≤ i
  · obtain ⟨ha, hc⟩ := hinside hf
    exact ⟨.inl ⟨hf, hback, ha⟩, ⟨hi, hb⟩, .inl ⟨hf, hback, hc⟩⟩
  · have hlt := Nat.not_le.1 hf
    obtain ⟨ha, hc⟩ := hstart hlt
    exact ⟨.inr ⟨hlt, ha⟩, ⟨hi, hb⟩, .inr ⟨hlt, hc⟩⟩

/-- A data byte is reconstructed from its neighbours and stored, and the last one of a scanline completes it
(42_defilter.md R203). -/
theorem dataByte_of_neighboursAre {s : State} {m : Mode} (f : FilterType) (x : Byte) {a b c : Byte}
    (hm : s.mode? = some m) (hcol : s.col.toNat < s.config.rowBufBytes)
    (hn : neighboursAre s m.fbpp s.col.toNat a b c) :
    dataByte (reconOf f) x { s with inByte := x } =
      if (s.col + 1).toNat = m.rowBytes s.cfgWidth then
        completeRow (m.rowBytes s.cfgWidth) (s.storeByte x (reconOf f x a b c))
      else .next (s.storeByte x (reconOf f x a b c)) := by
  have hstore : State.reconstruct { s with inByte := x } m (reconOf f) x =
      .ok (s.storeByte x (reconOf f x a b c)) :=
    reconstruct_ok.2 ⟨a, b, c, neighbours_of_neighboursAre hn hcol, hcol, rfl⟩
  simp only [dataByte, show State.mode? { s with inByte := x } = some m from hm, hstore]
  rfl

theorem read?_storeByte_cur (s : State) (x v : Byte) (k : Nat) :
    Memory.read? (s.storeByte x v).cur k = if k = s.col.toNat then some v else Memory.read? s.cur k :=
  Memory.read?_write s.cur s.col.toNat k v

/-- Settles O34: inside a scanline the byte at hand is stored, whichever instruction brings it. -/
theorem dataByteRule : Obligations.DataByteRule := by
  intro s f m x ig a b c hst hrow hp hph hm hlt hcap hn
  have hinside : ¬(s.col + 1).toNat = m.rowBytes s.cfgWidth := by bv_omega
  have hstored : dataByte (reconOf f) x { s with inByte := x } = .next (s.storeByte x (reconOf f x a b c)) :=
    (dataByte_of_neighboursAre f x hm (by omega) hn).trans (if_neg hinside)
  refine ⟨_, read?_storeByte_cur s x (reconOf f x a b c), fun hf => ?_, ?_⟩
  · exact (exec_dataByte x hst hrow hp hph hf).trans hstored
  · rintro rfl
    exact (exec_filter_data hst hrow hp f hph).trans hstored

/-- The byte stored next to written cells is one written cell more. -/
theorem full_storeByte {s : State} (x v : Byte) (h : Memory.full s.cur s.col.toNat) :
    Memory.full (s.storeByte x v).cur (s.col.toNat + 1) := by
  intro i hi
  rw [read?_storeByte_cur]
  split
  · rfl
  · exact h i (by omega)

/-- Settles O35: the byte at hand fills the row, which is copied whole, and ExtractNext is the mode's instruction. -/
theorem completeRowRule : Obligations.CompleteRowRule := by
  intro s f m x ig a b c hst hrow hp hph hm hf hlast hcap hbuf hfull hn
  have hcol : (s.col + 1).toNat = m.rowBytes s.cfgWidth := (toNat_add_one (by omega)).trans hlast
  have hwritten := hlast ▸ full_storeByte x (reconOf f x a b c) hfull
  obtain ⟨prior, hcopy⟩ := rowCopy_exists (c := s.config) s.prior hcap hwritten
  refine ⟨prior, _, read?_storeByte_cur s x (reconOf f x a b c), rowCopy_read hcopy, ?_⟩
  calc exec (.wrInData x ig) s
    _ = dataByte (reconOf f) x { s with inByte := x } := exec_dataByte x hst hrow hp hph hf
    _ = completeRow (m.rowBytes s.cfgWidth) (s.storeByte x (reconOf f x a b c)) :=
      (dataByte_of_neighboursAre f x hm (by omega) hn).trans (if_pos hcol)
    _ = extractNext (s.completed x (s.storeByte x (reconOf f x a b c)).cur prior) := completeRow_eq hcopy
    _ = exec m.instr (s.completed x (s.storeByte x (reconOf f x a b c)).cur prior) :=
      (extractNext_mode (by exact hm)).trans (exec_mode m _).symm

end Sys2Proof.Machine
end

section
/-! SUPPORT. The sample extractor (43_sample_extract.md): the bits of a scanline, the pixel extracted from them, and
that a held pixel stays the pixel of its own scanline's bits. -/

namespace Sys2Proof.Machine

/-! ### The bits of a scanline (43_sample_extract.md R264) -/

/-- Settles O37: RB is the scanline's bits divided by 8, rounded up. -/
theorem bitBudget : Obligations.BitBudget := by
  intro m w
  rw [Mode.rowBytes, Nat.mul_comm w.toNat]
  omega

/-! ### The pixel extracted (43_sample_extract.md R263) -/

/-- Settles O41: each mode instruction in RUN is ExtractNext in its mode, whose samples are those of the pixel due. -/
theorem extractPixel : Obligations.ExtractPixel := by
  intro s m p h hp
  obtain ⟨k, hext, hk⟩ := extract_due_some h hp
  refine ⟨k, ?_, hk⟩
  rw [exec_mode, modeInstr_run m h.run, hext]
  rfl

/-! ### The held pixel (43_sample_extract.md R257, 44_color_resolve.md R291) -/

/-- With no pixel held there is nothing to say of it. -/
theorem State.PixelInv.of_none_held {s : State} (h : s.outValid = false) : s.PixelInv :=
  fun ho => absurd (h.symm.trans ho) (by decide)

/-- Every outcome keeps the held pixel right: what an outcome changes of the configuration, the palette or the row
buffers it changes with no pixel held, and only ExtractNext places a pixel. -/
theorem State.Goes.pixelInv {s t : State} {i : Instr} (g : s.Goes i t) (h : s.Inv) (hpix : s.PixelInv) :
    t.PixelInv := by
  cases g with
  | unchanged | read => exact hpix
  | extracted _ _ _ _ hplaced => exact hplaced
  | raised | illegalFilter | aborted | refused | started | indexError | drained => exact .of_none_held rfl
  | configured _ hst | palette _ hst => exact .of_none_held (h.outValid_of_not_run (not_run_of_start hst))
  | latched _ _ _ _ hp => exact .of_none_held (h.outValid_of_filling hp)
  | stored _ _ _ hfill => exact .of_none_held (h.outValid_of_filling hfill.pend)

/-- Settles O53: a step holds the state, resets it, or takes it to an outcome of a transaction, and each keeps the held
pixel right. -/
theorem stepKeepsHeldPixel : Obligations.StepKeepsHeldPixel := by
  intro s t h hpix ht
  have hs := h.stepsTo
  rw [ht] at hs
  cases hs with
  | hold => exact hpix
  | reset => exact .of_none_held rfl
  | transaction _ _ g => exact g.pixelInv (h.of_queue _ s.rdData) hpix

end Sys2Proof.Machine
end

section
/-! SUPPORT. The colour resolver (44_color_resolve.md): the rescaling of a sample, Resolve in each colour type, and the
palette index out of range. -/

namespace Sys2Proof.Machine

/-! ### Rescaling (44_color_resolve.md R280, R281) -/

/-- The largest sample of each depth divides 65535. -/
theorem maxSample_mul_factor (d : Depth) : (2 ^ d.bits - 1) * (65535 / (2 ^ d.bits - 1)) = 65535 := by cases d <;> rfl

theorem maxSample_pos (d : Depth) : 0 < 2 ^ d.bits - 1 := by cases d <;> decide

theorem factor_pos (d : Depth) : 0 < 65535 / (2 ^ d.bits - 1) := by cases d <;> decide

/-- Rounding to the nearest has no effect on a quotient that is whole. -/
theorem round_mul_div {den : Nat} (h : 0 < den) (v k : Nat) : (2 * (v * (den * k)) + den) / (2 * den) = v * k := by
  have hsum : 2 * (v * (den * k)) + den = den + 2 * den * (v * k) := by ring
  rw [hsum, Nat.add_mul_div_left _ _ (by omega), Nat.div_eq_of_lt (by omega), Nat.zero_add]

theorem scale16_toNat (d : Depth) {v : Chan} (h : v.toNat < 2 ^ d.bits) :
    (scale16 v d).toNat = v.toNat * (65535 / (2 ^ d.bits - 1)) := by
  have hround := round_mul_div (maxSample_pos d) v.toNat (65535 / (2 ^ d.bits - 1))
  have hbound : v.toNat * (65535 / (2 ^ d.bits - 1)) ≤ (2 ^ d.bits - 1) * (65535 / (2 ^ d.bits - 1)) :=
    Nat.mul_le_mul_right _ (by omega)
  rw [maxSample_mul_factor] at hround hbound
  rw [scale16, hround, BitVec.toNat_ofNat, Nat.mod_eq_of_lt (by omega)]

theorem scale16_lt_scale16 (d : Depth) {v w : Chan} (hvw : v.toNat < w.toNat) (hw : w.toNat < 2 ^ d.bits) :
    (scale16 v d).toNat < (scale16 w d).toNat := by
  rw [scale16_toNat d (hvw.trans hw), scale16_toNat d hw]
  exact Nat.mul_lt_mul_of_pos_right hvw (factor_pos d)

theorem scale16_maxSample (d : Depth) {v : Chan} (h : v.toNat = 2 ^ d.bits - 1) : scale16 v d = 65535 := by
  have hpos := maxSample_pos d
  apply BitVec.eq_of_toNat_eq
  rw [scale16_toNat d (by omega), h, maxSample_mul_factor]
  rfl

/-- Settles O39: a sample in range is multiplied by the whole number 65535 / (2^d - 1). -/
theorem scalingExact : Obligations.ScalingExact := fun d =>
  ⟨maxSample_mul_factor d, fun _ => scale16_toNat d, by cases d <;> rfl, fun _ _ => scale16_lt_scale16 d,
    fun _ => scale16_maxSample d, rfl, rfl⟩

/-! ### Resolve (44_color_resolve.md R283 to R288) -/

theorem resolveIndexed_of_le {s : State} {ss : List Chan} (h : s.palLen ≤ (sample ss 0).toNat) :
    resolveIndexed s ss = .ok none := if_pos h

theorem resolveIndexed_of_lt {s : State} {ss : List Chan} {p : Rgba16} (h : (sample ss 0).toNat < s.palLen)
    (hread : palRead s.pal (sample ss 0).toNat = .ok p) : resolveIndexed s ss = .ok (some p) := by
  rw [resolveIndexed, if_neg (Nat.not_le.2 h), hread]
  rfl

/-- Settles O40: the dispatch of Resolve, and the two outcomes of the indexed lookup. -/
theorem resolveByColourType : Obligations.ResolveByColourType := fun _ _ _ _ _ _ =>
  ⟨rfl, rfl, fun h => resolveIndexed_of_le h, fun _ hlt h256 hp => resolveIndexed_of_lt hlt (palRead_ok.2 ⟨h256, hp⟩),
    rfl, rfl⟩

/-! ### PaletteIndexError (44_color_resolve.md R286, 60_exceptions.md R332) -/

/-- The raster position of a pixel of a scanline (43_sample_extract.md R263) fits the sample index of the error. -/
theorem State.ExtractionDue.rasterPos_toNat {s : State} {m : Mode} (h : s.ExtractionDue m)
    (hsize : s.row.toNat * s.cfgWidth.toNat < 2 ^ 64) :
    (BitVec.ofInt 64 s.rasterPos).toNat = (s.row.toNat - 1) * s.cfgWidth.toNat + s.xcol.toNat := by
  have hx := h.xcol_lt
  obtain ⟨r, hr⟩ := Nat.exists_eq_add_of_le' h.row_pos
  have hpos : s.rasterPos = ((r * s.cfgWidth.toNat + s.xcol.toNat : Nat) : Int) := by
    rw [State.rasterPos, hr]
    push_cast
    ring
  rw [hr, Nat.add_mul, Nat.one_mul] at hsize
  rw [hpos, BitVec.ofInt_natCast, BitVec.toNat_ofNat, Nat.mod_eq_of_lt (by omega), hr, Nat.add_sub_cancel]

/-- Settles O42: the samples are read before the index is checked, and the error takes the position of the pixel due. -/
theorem extractIndexError : Obligations.ExtractIndexError := by
  intro s m h hp
  have hend := cursor_bound h
  have hwrap := h.no_wrap
  refine ⟨(s.advance m.bitsPP).cursor, BitVec.ofInt 64 s.rasterPos, s.row - 1, ?_,
    advance_cursor_toNat s (by omega), BitVec.toNat_sub_of_le (BitVec.le_def.2 h.row_pos), h.rasterPos_toNat⟩
  rw [exec_mode, modeInstr_run m h.run, extract_due_none h hp]
  rfl

end Sys2Proof.Machine
end

section
/-! SUPPORT. Errors and reset (60_exceptions.md, 70_reset_and_hazards.md): what holds and resets the block, that ERROR
is sticky, and the ways out of it. -/

namespace Sys2Proof.Machine

/-! ### Holding and resetting (60_exceptions.md R348, 70_reset_and_hazards.md R370) -/

theorem step_hold {s : State} (hq : s.pending = []) : step s = .next s := by rw [step, runPending, hq]

theorem step_reset {s : State} {rest : List HostEvent} (hq : s.pending = .reset :: rest) :
    step s = .next (State.hardReset { s with pending := rest }) := by rw [step, runPending, hq]

/-- Settles O9: a step with no event holds the state, and one with a reset event is `hardReset`. -/
theorem holdAndReset : Obligations.HoldAndReset :=
  ⟨fun _ => step_hold, fun _ _ hq => ⟨_, step_reset hq, by simp [State.resetWith, Rgba16.zero]⟩⟩

/-! ### ERROR is sticky (60_exceptions.md R338) -/

section
variable {s : State} (h : s.st = .error)
include h

theorem inDataGate_error (k : State → Result) : inDataGate k s = .next s := by rw [inDataGate, h]

theorem modeInstr_error (m : Mode) : modeInstr m s = .next s := by rw [modeInstr, h]

theorem exec_filter_error (f : FilterType) : exec f.instr s = .next s := by
  rw [exec_filter, filterInstr, inDataGate_error h]

theorem exec_filterIllegal_error (x : Byte) : exec (.filterIllegal x) s = .next s := by
  simp [exec, execFilterIllegal, inDataGate_error h]

theorem exec_fmtIllegal_error (d c i : Byte) : exec (.fmtIllegal d c i) s = .next s := by
  simp [exec, execFmtIllegal, h]

end

/-- Settles O43: by the instruction. A write stops at its gate, a command at its look at the block state, and a filter
or mode instruction likewise. -/
theorem errorIsSticky : Obligations.ErrorIsSticky := by
  intro s i h
  cases i with
  | abort ig => exact .inl ⟨ig, rfl⟩
  | rd off => exact .inr (.inl ⟨off, s.regRead off, rfl, exec_rd off s⟩)
  | nop | wrIgnored => exact .inr (.inr rfl)
  | start ig => exact .inr (.inr (exec_start_error ig h))
  | eos ig => exact .inr (.inr (exec_eos_ignored ig (.inr h)))
  | pop ig => exact .inr (.inr (exec_pop_error ig h))
  | cmdReserved cmd ig => exact .inr (.inr (exec_cmdReserved_error cmd ig h))
  | palClear | wrWidth | wrHeight | wrFormat | wrPalData =>
    refine .inr (.inr ?_)
    simp only [exec, execPalClear, execWrWidth, execWrHeight, execWrFormat, execWrPalData, idleWrite_error h]
  | wrInData x ig => exact .inr (.inr (exec_inData_ignored x ig (.inr h)))
  | filterNone => exact .inr (.inr (exec_filter_error h .none))
  | filterSub => exact .inr (.inr (exec_filter_error h .sub))
  | filterUp => exact .inr (.inr (exec_filter_error h .up))
  | filterAvg => exact .inr (.inr (exec_filter_error h .avg))
  | filterPaeth => exact .inr (.inr (exec_filter_error h .paeth))
  | filterIllegal x => exact .inr (.inr (exec_filterIllegal_error h x))
  | g1 | g2 | g4 | g8 | g16 | rgb8 | rgb16 | p1 | p2 | p4 | p8 | ga8 | ga16 | rgba8 | rgba16 =>
    exact .inr (.inr (modeInstr_error h _))
  | fmtIllegal d c il => exact .inr (.inr (exec_fmtIllegal_error h d c il))

/-! ### The exits from ERROR (60_exceptions.md R339) -/

/-- An access that gives a next state has run its instruction. -/
theorem runAccess_next {a : BusAccess} {s t : State} (h : runAccess a s = .next t) :
    ∃ i, a.instr s.config = .ok i ∧ exec i s = .next t := by
  unfold runAccess at h
  cases hi : a.instr s.config with
  | ok i => exact ⟨i, rfl, by simpa [hi] using h⟩
  | error r => simp [hi] at h

/-- The one instruction that takes the block out of ERROR is ABORT. -/
theorem abort_of_leaves_error {s t : State} {i : Instr} (h : s.st = .error) (he : exec i s = .next t)
    (ht : t.st ≠ .error) : ∃ ig, i = .abort ig ∧ t = s.abort := by
  rcases errorIsSticky s i h with ⟨ig, rfl⟩ | ⟨off, v, rfl, hrd⟩ | hkeep
  · exact ⟨ig, rfl, (Host.Outcome.next.inj he).symm⟩
  · obtain rfl := Host.Outcome.next.inj (hrd.symm.trans he)
    exact absurd h ht
  · obtain rfl := Host.Outcome.next.inj (hkeep.symm.trans he)
    exact absurd h ht

/-- Settles O44: by the oldest event. With none the state is held, a reset event is one exit, and an access is the
other exit only if it is an ABORT. -/
theorem errorExits : Obligations.ErrorExits := by
  intro s t h hstep ht
  cases hq : s.pending with
  | nil =>
    obtain rfl := Host.Outcome.next.inj ((step_hold hq).symm.trans hstep)
    exact absurd h ht
  | cons e rest =>
    cases e with
    | reset =>
      obtain rfl := Host.Outcome.next.inj ((step_reset hq).symm.trans hstep)
      exact ⟨rfl, rfl, rfl, rfl, rfl, .inl ⟨rest, rfl⟩⟩
    | access a =>
      obtain ⟨i, hi, he⟩ := runAccess_next ((step_access hq).symm.trans hstep)
      obtain ⟨ig, rfl, rfl⟩ := abort_of_leaves_error (by exact h) he ht
      exact ⟨rfl, rfl, rfl, rfl, rfl, .inr ⟨a, ig, rest, rfl, hi, rfl, rfl, rfl, rfl, rfl, rfl, rfl⟩⟩

/-! ### No pixel in ERROR (60_exceptions.md R341, R349) -/

/-- With no pixel held the output registers read 0 (10_state.md R40, R41). -/
theorem outRg_of_none_held {s : State} (h : s.outValid = false) : s.outRg = 0 := by simp [State.outRg, h]

theorem outBa_of_none_held {s : State} (h : s.outValid = false) : s.outBa = 0 := by simp [State.outBa, h]

/-- Settles O48: the invariant lets a pixel be held in RUN only. -/
theorem noPixelInError : Obligations.NoPixelInError := by
  intro s h hst
  have ho := h.outValid_of_not_run (by rw [hst]; decide)
  have hrg : s.regRead 0x2C = 0 := outRg_of_none_held ho
  have hba : s.regRead 0x30 = 0 := outBa_of_none_held ho
  exact ⟨ho, by simp [State.heldPixel?, ho], by rw [exec_rd, hrg], by rw [exec_rd, hba]⟩

end Sys2Proof.Machine
end

section
/-! SUPPORT. What a decode is set up with (70_reset_and_hazards.md R377, R378): its configuration and palette, with the
parameters and the events still to happen. Said once for every instruction, in states with and without the invariant. -/

namespace Sys2Proof.Machine

/-! ### Reset (70_reset_and_hazards.md R370) -/

/-- Settles O49: after reset every memory is empty, the block is in IDLE, and no pixel is held. -/
theorem resetSatisfiesInv : Obligations.ResetSatisfiesInv :=
  fun _ hc => ⟨inv_resetWith hc, .of_none_held rfl⟩

/-! ### The setup of a decode -/

/-- The configuration registers and the palette, with the parameters and the events still to happen. -/
structure Setup where
  width : Word
  height : Word
  depth : Byte
  ctype : Byte
  interlace : Byte
  pal : List (Nat × Rgba16)
  palLen : Nat
  config : Config
  pending : List HostEvent

def State.setup (s : State) : Setup where
  width := s.cfgWidth
  height := s.cfgHeight
  depth := s.cfgDepth
  ctype := s.cfgCtype
  interlace := s.cfgInterlace
  pal := s.pal
  palLen := s.palLen
  config := s.config
  pending := s.pending

/-- The outcome, if it is a next state, has the setup of `s`. -/
def KeepsSetup (s : State) (r : Result) : Prop := ∀ t, r = .next t → t.setup = s.setup

theorem keepsSetup_next {s t : State} (h : t.setup = s.setup) : KeepsSetup s (.next t) :=
  fun _ ht => Host.Outcome.next.inj ht ▸ h

theorem keepsSetup_fault {s : State} (f : Fault) : KeepsSetup s (.fault f) := nofun

/-! ### The mode words -/

/-- START in a mode writes the run state and `prior` (40_host_interface.md R137). -/
theorem setup_startMode (s : State) (m : Mode) : (s.startMode m).setup = s.setup := by
  rw [startMode_eq]
  split
  · rfl
  · split <;> rfl

/-- ExtractNext writes the cursor and the output register, or raises an error (43_sample_extract.md R263). -/
theorem setup_extract {s t : State} {m : Mode} (h : s.extract m = .ok t) : t.setup = s.setup := by
  obtain ⟨ss, -, ⟨px, -, rfl⟩ | ⟨-, rfl⟩⟩ := extract_next h
  · split <;> rfl
  · rfl

theorem keepsSetup_modeInstr (m : Mode) (s : State) : KeepsSetup s (modeInstr m s) := by
  unfold modeInstr
  split
  · exact keepsSetup_next (setup_startMode s m)
  · exact keepsSetup_next (setup_startMode s m)
  · exact fun t h => setup_extract (toResult_next.1 h)
  · exact keepsSetup_next rfl

theorem keepsSetup_fmtIllegal (d c i : Byte) (s : State) : KeepsSetup s (execFmtIllegal d c i s) := by
  unfold execFmtIllegal
  split
  · exact keepsSetup_next rfl
  · exact keepsSetup_next rfl
  · exact keepsSetup_fault _
  · exact keepsSetup_next rfl

theorem keepsSetup_runFormat (s : State) : KeepsSetup s (runFormat s) := by
  unfold runFormat
  split
  · split
    · rw [runMode_eq]; exact keepsSetup_modeInstr _ s
    · exact keepsSetup_fmtIllegal _ _ _ s
  · exact keepsSetup_fmtIllegal _ _ _ s

theorem keepsSetup_extractNext (s : State) : KeepsSetup s (extractNext s) := by
  unfold extractNext
  split
  · rw [runMode_eq]; exact keepsSetup_modeInstr _ s
  · exact keepsSetup_fmtIllegal _ _ _ s

/-! ### The stream bytes -/

/-- CompleteRow writes `prior` and the position, then ExtractNext runs (42_defilter.md R211). -/
theorem keepsSetup_completeRow (rb : Nat) (s : State) : KeepsSetup s (completeRow rb s) := by
  unfold completeRow
  split
  · exact keepsSetup_fault _
  · exact keepsSetup_extractNext _

theorem setup_reconstruct {s t : State} {m : Mode} {recon : Byte → Byte → Byte → Byte → Byte} {x : Byte}
    (h : s.reconstruct m recon x = .ok t) : t.setup = s.setup := by
  obtain ⟨a, b, c, -, -, rfl⟩ := reconstruct_ok.1 h
  rfl

theorem keepsSetup_dataByte (recon : Byte → Byte → Byte → Byte → Byte) (x : Byte) (s : State) :
    KeepsSetup s (dataByte recon x s) := by
  unfold dataByte
  split
  · exact keepsSetup_fault _
  · split
    · exact keepsSetup_fault _
    · rename_i t ht
      have hstored : t.setup = s.setup := setup_reconstruct ht
      split
      · exact fun u hu => (keepsSetup_completeRow _ t u hu).trans hstored
      · exact keepsSetup_next hstored

theorem setup_filterByte (s : State) (x : Byte) : (s.filterByte x).setup = s.setup := by
  rcases Nat.lt_or_ge 4 x.toNat with hx | hx
  · rw [filterByte_illegal s hx]; rfl
  · rw [filterByte_legal s hx]; rfl

/-- A stream byte keeps the setup if its own processing does: the gate itself raises protocol errors only. -/
theorem keepsSetup_inDataGate {k : State → Result} {s : State} (hk : KeepsSetup s (k s)) :
    KeepsSetup s (inDataGate k s) := by
  intro t h
  rcases inDataGate_next h with ⟨-, rfl⟩ | rfl | ⟨-, -, -, rfl⟩ | ⟨-, -, -, hrun⟩
  · rfl
  · rfl
  · rfl
  · exact hk t hrun

theorem keepsSetup_filter (f : FilterType) (s : State) : KeepsSetup s (exec f.instr s) := by
  rw [exec_filter, filterInstr]
  apply keepsSetup_inDataGate
  split
  · exact keepsSetup_next (setup_filterByte s _)
  · exact keepsSetup_dataByte _ _ s

theorem keepsSetup_filterIllegal (x : Byte) (s : State) : KeepsSetup s (exec (.filterIllegal x) s) := by
  show KeepsSetup s (execFilterIllegal x s)
  unfold execFilterIllegal
  apply keepsSetup_inDataGate
  split
  · exact keepsSetup_next (setup_filterByte s x)
  · exact keepsSetup_fault _

/-- The filter instruction of any byte (30_encoding.md R104). -/
theorem keepsSetup_decodeFb (x : Byte) (s : State) : KeepsSetup s (exec (decodeFb x) s) := by
  rcases Nat.lt_or_ge 4 x.toNat with hx | hx
  · rw [decodeFb_illegal hx]; exact keepsSetup_filterIllegal x s
  · obtain ⟨f, rfl⟩ := exists_codeOf hx
    rw [decodeFb_codeOf]; exact keepsSetup_filter f s

theorem keepsSetup_wrInData (x : Byte) (ig : BitVec 24) (s : State) : KeepsSetup s (exec (.wrInData x ig) s) := by
  show KeepsSetup s (execWrInData x ig s)
  unfold execWrInData
  apply keepsSetup_inDataGate
  rw [runFilter_eq]
  exact keepsSetup_decodeFb _ { s with inByte := x }

/-! ### The commands -/

theorem keepsSetup_start (ig : BitVec 28) (s : State) : KeepsSetup s (exec (.start ig) s) := by
  show KeepsSetup s (execStart ig s)
  unfold execStart
  split
  · exact keepsSetup_runFormat s
  · exact keepsSetup_runFormat s
  · exact keepsSetup_next rfl
  · exact keepsSetup_next rfl

theorem keepsSetup_eos (ig : BitVec 28) (s : State) : KeepsSetup s (exec (.eos ig) s) := by
  show KeepsSetup s (execEos ig s)
  unfold execEos
  split
  · exact keepsSetup_next rfl
  · apply keepsSetup_next; split <;> rfl
  · exact keepsSetup_next rfl
  · exact keepsSetup_next rfl

theorem keepsSetup_popPixel (s : State) : KeepsSetup s (popPixel s) := by
  by_cases h : s.xcol.toNat + 1 < s.cfgWidth.toNat
  · rw [popPixel_more h]; exact keepsSetup_extractNext _
  · rw [popPixel_last h]; exact keepsSetup_next rfl

theorem keepsSetup_pop (ig : BitVec 28) (s : State) : KeepsSetup s (exec (.pop ig) s) := by
  show KeepsSetup s (execPop ig s)
  unfold execPop
  split
  · exact keepsSetup_next rfl
  · exact keepsSetup_next rfl
  · split
    · exact keepsSetup_popPixel s
    · exact keepsSetup_next rfl
  · exact keepsSetup_next rfl

theorem keepsSetup_cmdReserved (cmd : BitVec 4) (ig : BitVec 28) (s : State) :
    KeepsSetup s (exec (.cmdReserved cmd ig) s) := by
  by_cases h : s.st = .error
  · rw [exec_cmdReserved_error cmd ig h]; exact keepsSetup_next rfl
  · rw [exec_cmdReserved cmd ig h]; exact keepsSetup_next rfl

/-! ### Every instruction -/

/-- What instruction `i` can do to the setup of `s`: nothing, or, in IDLE and DONE, a write of the configuration or of
the palette. -/
inductive State.SetsUp (s : State) : Instr → State → Prop
  | kept (i : Instr) {t : State} (h : t.setup = s.setup) : s.SetsUp i t
  | configured (i : Instr) (hst : s.st = .idle ∨ s.st = .done) (w ht : Word) (d c il : Byte) :
      s.SetsUp i (s.configured w ht d c il)
  | cleared (ig : BitVec 28) (hst : s.st = .idle ∨ s.st = .done) : s.SetsUp (.palClear ig) (s.withPalette s.pal 0)
  | appended (r g b ig : Byte) (hst : s.st = .idle ∨ s.st = .done) :
      s.SetsUp (.wrPalData r g b ig) (s.palAppend (paletteEntry r g b))

/-- A gated write does what it writes in IDLE and DONE only (40_host_interface.md R130). -/
theorem State.SetsUp.of_idleWrite {s t : State} {i : Instr} {cause : BitVec 4} {f : State → State}
    (h : idleWrite cause f s = .next t) (hf : (s.st = .idle ∨ s.st = .done) → s.SetsUp i (f s)) : s.SetsUp i t := by
  rcases idleWrite_next h with ⟨hst, rfl⟩ | ⟨-, rfl⟩ | ⟨-, rfl⟩
  · exact hf hst
  · exact .kept i rfl
  · exact .kept i rfl

/-- The five gated writes are the only instructions that can write the setup. -/
theorem State.SetsUp.of_exec {s t : State} {i : Instr} (h : exec i s = .next t) : s.SetsUp i t := by
  cases i with
  | palClear ig => exact .of_idleWrite (cause := 2) (f := fun s => { s with palLen := 0 }) h (.cleared ig)
  | wrPalData r g b ig =>
    exact .of_idleWrite (cause := 2) (f := fun s => s.palAppend (paletteEntry r g b)) h (.appended r g b ig)
  | wrWidth w =>
    exact .of_idleWrite (cause := 1) (f := fun s => { s with cfgWidth := w }) h fun hst => .configured _ hst w ..
  | wrHeight ht =>
    exact .of_idleWrite (cause := 1) (f := fun s => { s with cfgHeight := ht }) h fun hst => .configured _ hst _ ht ..
  | wrFormat d c il =>
    exact .of_idleWrite (cause := 1) (f := fun s => { s with cfgDepth := d, cfgCtype := c, cfgInterlace := il }) h
      fun hst => .configured _ hst _ _ d c il
  | nop | wrIgnored => exact .kept _ (keepsSetup_next (t := s) rfl t h)
  | abort => exact .kept _ (keepsSetup_next (t := s.abort) rfl t h)
  | rd off => exact .kept _ (keepsSetup_next (t := { s with rdData := s.regRead off }) rfl t h)
  | start ig => exact .kept _ (keepsSetup_start ig s t h)
  | eos ig => exact .kept _ (keepsSetup_eos ig s t h)
  | pop ig => exact .kept _ (keepsSetup_pop ig s t h)
  | cmdReserved cmd ig => exact .kept _ (keepsSetup_cmdReserved cmd ig s t h)
  | wrInData x ig => exact .kept _ (keepsSetup_wrInData x ig s t h)
  | filterNone => exact .kept _ (keepsSetup_filter .none s t h)
  | filterSub => exact .kept _ (keepsSetup_filter .sub s t h)
  | filterUp => exact .kept _ (keepsSetup_filter .up s t h)
  | filterAvg => exact .kept _ (keepsSetup_filter .avg s t h)
  | filterPaeth => exact .kept _ (keepsSetup_filter .paeth s t h)
  | filterIllegal x => exact .kept _ (keepsSetup_filterIllegal x s t h)
  | g1 | g2 | g4 | g8 | g16 | rgb8 | rgb16 | p1 | p2 | p4 | p8 | ga8 | ga16 | rgba8 | rgba16 =>
    exact .kept _ (keepsSetup_modeInstr _ s t h)
  | fmtIllegal d c il => exact .kept _ (keepsSetup_fmtIllegal d c il s t h)

theorem palAppend_frame (s : State) (p : Rgba16) :
    (s.palAppend p).config = s.config ∧ (s.palAppend p).pending = s.pending := by
  unfold State.palAppend
  split <;> exact ⟨rfl, rfl⟩

/-- Settles O45: what writes the setup is gated by the block state, and in RUN raises an error instead. -/
theorem runKeepsConfiguration : Obligations.RunKeepsConfiguration := by
  intro i s t hrun he
  cases State.SetsUp.of_exec he with
  | kept _ h =>
    exact ⟨congrArg Setup.width h, congrArg Setup.height h, congrArg Setup.depth h, congrArg Setup.ctype h,
      congrArg Setup.interlace h, congrArg Setup.pal h, congrArg Setup.palLen h⟩
  | configured _ hst | cleared _ hst | appended _ _ _ _ hst => exact absurd hrun (not_run_of_start hst)

/-- Settles O46: of the writes of the setup, PAL_CLEAR and WR_PAL_DATA alone write the palette. -/
theorem palettePersists : Obligations.PalettePersists := by
  intro i s t he
  cases State.SetsUp.of_exec he with
  | kept _ h =>
    exact ⟨congrArg Setup.config h, congrArg Setup.pending h,
      .inr (.inr ⟨congrArg Setup.pal h, congrArg Setup.palLen h⟩)⟩
  | configured => exact ⟨rfl, rfl, .inr (.inr ⟨rfl, rfl⟩)⟩
  | cleared ig => exact ⟨rfl, rfl, .inl ⟨ig, rfl⟩⟩
  | appended r g b ig =>
    obtain ⟨hconfig, hpending⟩ := palAppend_frame s (paletteEntry r g b)
    exact ⟨hconfig, hpending, .inr (.inl ⟨r, g, b, ig, rfl⟩)⟩

end Sys2Proof.Machine
end
